-- ==== Sys2Proof/Word.lean ====
section
/-! DEFINITION. The word types of the W65C816S (00_scope.md R4, R5) and the two operand widths (R7). -/

namespace Sys2Proof

/-- The addressable unit: 8 bits (10_state.md R42). -/
abbrev Byte := BitVec 8

/-- A 16-bit register or datum (10_state.md R20 to R37). -/
abbrev Word := BitVec 16

/-- A 24-bit address, `bank:addr16` (20_memory.md R70). -/
abbrev Addr := BitVec 24

/-- The width of a data operation, 8 or 16 bits (00_scope.md R7). -/
inductive Width where
  | w8
  | w16
  deriving DecidableEq, Repr

/-- The number of bits of a width. -/
def Width.bits : Width → Nat
  | .w8 => 8
  | .w16 => 16

end Sys2Proof
end

