-- ==== Sys2Proof/Machine/Bytes.lean ====
section
/-! DEFINITION. Byte order, bit fields, extensions and the three successor functions of an address
(00_scope.md R4, R5, R8; 20_memory.md R74). Data of either width is held in a `Word`; at width 8 only
the low byte counts. -/

namespace Sys2Proof.Machine

/-- Bits 7..0 of a word. -/
def lo (w : Word) : Byte := w.extractLsb' 0 8

/-- Bits 15..8 of a word. -/
def hi (w : Word) : Byte := w.extractLsb' 8 8

/-- `hi:lo` as a word: the high byte first (R5). -/
def word (h l : Byte) : Word := h ++ l

/-- A byte zero-extended to a word (R5). -/
def zext (b : Byte) : Word := word 0 b

/-- A byte sign-extended to a word (R5). -/
def sext (b : Byte) : Word := b.signExtend 16

/-- `bank:addr16` (R5). -/
def addr (bank : Byte) (off : Word) : Addr := bank ++ off

/-- Bits 23..16 of an address: the bank (20_memory.md R70). -/
def bankOf (a : Addr) : Byte := a.extractLsb' 16 8

/-- Bits 15..0 of an address. -/
def offOf (a : Addr) : Word := a.extractLsb' 0 16

/-- `inc24`: the next address, linear, carrying into the bank (R8). -/
def inc24 (a : Addr) : Addr := a + 1

/-- `incbank`: the next address inside the 64-KByte bank (R8). -/
def incBank (a : Addr) : Addr := addr (bankOf a) (offOf a + 1)

/-- `incpage`: the next address inside the 256-byte page (R8). -/
def incPage (a : Addr) : Addr := addr (bankOf a) (word (hi (offOf a)) (lo (offOf a) + 1))

/-- The value at a width: at width 8 the low byte zero-extended. -/
def trunc : Width → Word → Word
  | .w8, v => zext (lo v)
  | .w16, v => v

/-- The top bit of a value at a width: bit 7 or bit 15 (R9). -/
def msb : Width → Word → Bool
  | .w8, v => v.getLsbD 7
  | .w16, v => v.getLsbD 15

/-- The second bit from the top: bit 6 or bit 14 (41_arithmetic_logic.md R231). -/
def msb2 : Width → Word → Bool
  | .w8, v => v.getLsbD 6
  | .w16, v => v.getLsbD 14

/-- Is the value zero at a width (R9)? -/
def isZero (w : Width) (v : Word) : Bool := trunc w v == 0

/-- Write bit `i` of a byte. -/
def setBit (b : Byte) (i : Nat) (v : Bool) : Byte :=
  if v then b ||| (1#8 <<< i) else b &&& ~~~(1#8 <<< i)

end Sys2Proof.Machine
end

