-- ==== Sys2Proof/Config.lean ====
section
/-! DEFINITION. What the spec leaves to the implementation or leaves open (00_scope.md section 4, 92 section 1, 93 section
1). A named reset value is this model's own DESIGN CHOICE; a free value is an opaque constant, so that nothing can be
proved of the value it takes. A free value is applied to the number of the draw (State field `draws`). -/

namespace Sys2Proof.Config

/-- DESIGN CHOICE, unsafe (log 1): what an address that nothing has written reads as. The spec leaves memory to the
platform (parameter MEM, 92 D1, 93 U22). -/
def unlistedByte : Byte := 0x00

/-- DESIGN CHOICE, unsafe (log 2): the accumulator in State.reset, which the spec leaves uninitialised (10_state.md R60). -/
def resetC : Word := 0x0000

/-- DESIGN CHOICE, unsafe (log 2): XL in State.reset (R60). -/
def resetXL : Byte := 0x00

/-- DESIGN CHOICE, unsafe (log 2): YL in State.reset (R60). -/
def resetYL : Byte := 0x00

/-- DESIGN CHOICE, unsafe (log 2): SL in State.reset (R60). -/
def resetSL : Byte := 0x00

/-- DESIGN CHOICE, unsafe (log 2): the flags N, V, Z, C in State.reset, as the bits 7, 6, 1, 0 of a byte (R60). -/
def resetNVZC : Byte := 0x00

/-- Free value (log 5): RESET_A, the byte A after a reset taken at run time (R60, 93 U1). -/
opaque freeA : Nat → Byte

/-- Free value (log 5): RESET_B, the byte B after a reset taken at run time (R60, 91 N10, 93 U1). -/
opaque freeB : Nat → Byte

/-- Free value (log 5): RESET_XL (R60, 93 U1). -/
opaque freeXL : Nat → Byte

/-- Free value (log 5): RESET_YL (R60, 93 U1). -/
opaque freeYL : Nat → Byte

/-- Free value (log 5): RESET_SL (R60, 93 U1). -/
opaque freeSL : Nat → Byte

/-- Free value (log 5): RESET_N (R60, 93 U1). -/
opaque freeN : Nat → Bool

/-- Free value (log 5): RESET_V (R60, 93 U1). -/
opaque freeV : Nat → Bool

/-- Free value (log 5): RESET_Z (R60, 93 U1). -/
opaque freeZ : Nat → Bool

/-- Free value (log 5): RESET_C (R60, 93 U1). -/
opaque freeC : Nat → Bool

/-- Free value (log 6): P.V after a decimal ADC or SBC (parameter BCD, 41_arithmetic_logic.md R222, 93 U2). -/
opaque bcdV : Nat → Bool

/-- Free value (log 6): the result of a decimal ADC or SBC on an invalid digit (parameter BCD, R222, 93 U2). -/
opaque bcdResult : Nat → Word

/-- Free value (log 6): P.N after a decimal ADC or SBC on an invalid digit (parameter BCD, R222, 93 U2). -/
opaque bcdN : Nat → Bool

/-- Free value (log 6): P.Z after a decimal ADC or SBC on an invalid digit (parameter BCD, R222, 93 U2). -/
opaque bcdZ : Nat → Bool

/-- Free value (log 6): P.C after a decimal ADC or SBC on an invalid digit (parameter BCD, R222, 93 U2). -/
opaque bcdC : Nat → Bool

/-- Free value (log 7): RMW_E1_FIRST_WRITE, the byte on the data bus in the modify cycle of an emulation-mode
read-modify-write, as a function of the byte read and the byte to be written (42_shift_rmw.md R240, 93 U4). -/
opaque rmwE1FirstWrite : Byte → Byte → Byte

/-- Free value (log 14): the level of the MX pin in the opcode-fetch cycle after REP, SEP or PLP, while PHI2 has the
level given (65_pins_and_bus.md R456, 93 U10). -/
opaque freeMX : Nat → Bool → Bool

end Sys2Proof.Config
end

