-- ==== Sys2Proof/Machine/Memory.lean ====
section
/-! DEFINITION. Memory: the flat array of 2^24 bytes (20_memory.md R70) as a list of cells in one canonical form.
Addresses rise strictly, every address is below 2^24, and no cell holds what an unlisted address reads as. -/

namespace Sys2Proof.Machine

/-- The listed bytes of memory, by rising address. -/
abbrev Memory := List Host.Cell

/-- The byte at an address; an unlisted address reads as `Config.unlistedByte` (log 1). -/
def Memory.read : Memory → Nat → Byte
  | [], _ => Config.unlistedByte
  | (a, v) :: rest, b => if a = b then v else Memory.read rest b

/-- Memory without a cell at an address. -/
def Memory.erase : Memory → Nat → Memory
  | [], _ => []
  | (a, v) :: rest, b => if a = b then Memory.erase rest b else (a, v) :: Memory.erase rest b

/-- A new cell at its place in the rising order. -/
def Memory.insert : Memory → Nat → Byte → Memory
  | [], b, v => [(b, v)]
  | (a, u) :: rest, b, v => if b < a then (b, v) :: (a, u) :: rest else (a, u) :: Memory.insert rest b v

/-- Store a byte, keeping the canonical form: storing the unlisted byte only removes the cell. -/
def Memory.write (m : Memory) (b : Nat) (v : Byte) : Memory :=
  if v = Config.unlistedByte then m.erase b else (m.erase b).insert b v

/-- Memory after the platform's own changes, the oldest first (20_memory.md R87; 65_pins_and_bus.md R467 a). -/
def Memory.change (m : Memory) (cs : List (Addr × Byte)) : Memory := cs.foldl (fun m c => m.write c.1.toNat c.2) m

/-- The cells rise strictly from `low` up, lie below 2^24, and none holds the unlisted byte. -/
def Memory.wfFrom : Nat → Memory → Bool
  | _, [] => true
  | low, (a, v) :: rest =>
    decide (low ≤ a) && decide (a < 2 ^ 24) && decide (v ≠ Config.unlistedByte) && Memory.wfFrom (a + 1) rest

/-- The canonical form of memory. -/
def Memory.wf (m : Memory) : Bool := Memory.wfFrom 0 m

end Sys2Proof.Machine
end

