-- ==== Sys2Proof/Machine/State.lean ====
section
/-! DEFINITION. The state of the machine: everything 10_state.md gives it, the host's inputs (65_pins_and_bus.md R467) and
two fields of the model's own. Plain data. -/

namespace Sys2Proof.Machine

/-- The kinds of bus cycle that read memory, by the pins they show (65_pins_and_bus.md R457, R460, R462). -/
inductive CycleKind where
  /-- VDA = VPA = 1: an opcode byte. -/
  | opcode
  /-- VPA = 1 alone: an operand byte, or a pointer of `(a,x)`. -/
  | program
  /-- VDA = 1 alone: data, stack, or a pointer. -/
  | data
  /-- VDA = 1 with MLB low: the data read of a read-modify-write. -/
  | locked
  /-- VDA = 1 with VPB low: a vector. -/
  | vector
  deriving DecidableEq, Repr

/-- What the platform answers to a read of one kind at one address, in the place of the byte memory holds (R467 a). -/
structure Answer where
  kind : CycleKind
  addr : BitVec 24
  byte : BitVec 8
  deriving DecidableEq, Repr

/-- One sample of the host's inputs, taken at an instruction boundary (65_pins_and_bus.md R467). Levels are the pins'
own: low (false) is active for `irqb`, `nmib` and `resb`. -/
structure Pins where
  /-- IRQB, level sensitive (R463). -/
  irqb : Bool
  /-- NMIB; its falling edge counts (R464). -/
  nmib : Bool
  /-- RESB; a step that samples it low is a whole reset (R465, 93 U15). -/
  resb : Bool
  /-- ABORTB was pulsed during this step (R461, R467 e). -/
  abort : Bool
  /-- An external driver holds RDY high, so that WAI does not wait (R458, R467 f). -/
  rdyForcedHigh : Bool
  /-- RESB falls in the middle of this step, after so many of its bus cycles (70_reset_and_hazards.md R500 step 1). -/
  resetAfter : Option Nat
  /-- What the platform put into memory since the step before: a device's new register values, the side effects of the
  reads and writes it saw, another bus master's writes (R467 a; 20_memory.md R80, R87). -/
  changes : List (BitVec 24 × BitVec 8)
  /-- The reads the platform answers itself in this step: a device, a bank switched by the kind of cycle, a vector
  substituted while VPB is low (R467 a, R460). Where a step reads one address twice with one kind of cycle, the answers
  listed for it are used one after another and the last stays. Every other read gets the byte memory holds. -/
  answers : List Answer
  deriving DecidableEq, Repr

/-- No input active, and flat RAM (R467, 92 D1: the default platform). -/
def Pins.idle : Pins :=
  { irqb := true, nmib := true, resb := true, abort := false, rdyForcedHigh := false, resetAfter := none, changes := []
    answers := [] }

/-- The machine's state between two steps. -/
structure State where
  /-- The accumulator C = B:A (10_state.md R20). -/
  c : BitVec 16
  /-- The index register X (R22). -/
  x : BitVec 16
  /-- The index register Y (R22). -/
  y : BitVec 16
  /-- The stack pointer S (R36). -/
  sp : BitVec 16
  /-- The direct register D (R37). -/
  d : BitVec 16
  /-- The data bank register DBR (R38). -/
  dbr : BitVec 8
  /-- The program bank register PBR (R39). -/
  pbr : BitVec 8
  /-- The program counter PC: between steps, the address of the next opcode byte (R25). -/
  pc : BitVec 16
  /-- The status register P: N V M X D I Z C in bits 7 to 0 (R30, R33). -/
  p : BitVec 8
  /-- The emulation bit E (R32). -/
  e : Bool
  /-- The listed bytes of memory in canonical form (20_memory.md R70; Memory.lean). -/
  mem : List Host.Cell
  /-- The NMI edge latch (R45). -/
  nmiPending : Bool
  /-- The previous level of pin NMIB (R45). -/
  nmiPrev : Bool
  /-- The ABORT latch (R47). -/
  abortPending : Bool
  /-- Set by WAI (R48). -/
  waiting : Bool
  /-- Set by STP (R48). -/
  stopped : Bool
  /-- The inputs in force (65_pins_and_bus.md R467). -/
  pins : Pins
  /-- The samples of the inputs still to come, one a step, the oldest first (R467; log 8). -/
  input : List Pins
  /-- The model's own: the MX pin is invalid in the coming opcode fetch (R456; log 14). -/
  mxInvalid : Bool
  /-- The model's own: how many free values were drawn (log 5, log 6). -/
  draws : Nat
  deriving DecidableEq, Repr

/-- Why the machine faults: never. No instruction, address or operand can fault (60_exceptions.md R401; 93: the treatment
fault "is used nowhere"), so this type is empty. -/
inductive Fault where
  deriving DecidableEq, Repr

/-- Why a step is refused. -/
inductive Refusal where
  /-- Raised by no arm of `exec` any more: it named an instruction without a meaning. Safe: nothing can be proved of what
  such an instruction does. -/
  | notModelled (mnemonic : String)
  /-- Raised by the step when ABORTB is active during the abort interrupt sequence itself, which 93 U6 (treatment
  "refuse") puts outside the model. Safe: the machine stops where the hardware goes on. -/
  | abortDuringAbort
  deriving DecidableEq, Repr

/-- What every step answers. -/
abbrev Result := Host.Outcome State Fault Refusal

/-- P after reset: M = X = I = 1, D = 0 (10_state.md R60); N, V, Z, C are Config's (log 2). -/
def resetP : BitVec 8 := 0x34 ||| (Config.resetNVZC &&& 0xC3)

/-- The machine right after reset (10_state.md R60, R61). The PC is the word at the reset vector 00FFFC,D, which the empty
memory reads as twice the unlisted byte. What R60 leaves uninitialised is named in Config (log 2). -/
def State.reset : State :=
  { c := Config.resetC
    x := 0#8 ++ Config.resetXL
    y := 0#8 ++ Config.resetYL
    sp := 0x01#8 ++ Config.resetSL
    d := 0x0000
    dbr := 0x00
    pbr := 0x00
    pc := Config.unlistedByte ++ Config.unlistedByte
    p := resetP
    e := true
    mem := []
    nmiPending := false
    nmiPrev := true
    abortPending := false
    waiting := false
    stopped := false
    pins := Pins.idle
    input := []
    mxInvalid := false
    draws := 0 }

end Sys2Proof.Machine
end

