-- ==== Sys2Proof/Machine/Ops.lean ====
section
/-! DEFINITION. The named operations over registers, flags, memory and the stack, and taking an interrupt (00_scope.md
section 5; 10_state.md; 45_status.md R290; 60_exceptions.md R402, R410). Every read and write of State goes through
them. -/

namespace Sys2Proof.Machine

/-! ### Flags and widths (10_state.md R30, R31) -/

/-- P.N, bit 7. -/
def State.fN (s : State) : Bool := s.p.getLsbD 7
/-- P.V, bit 6. -/
def State.fV (s : State) : Bool := s.p.getLsbD 6
/-- P.M, bit 5: 1 selects 8-bit accumulator and memory data. -/
def State.fM (s : State) : Bool := s.p.getLsbD 5
/-- P.X, bit 4: 1 selects 8-bit index registers. -/
def State.fX (s : State) : Bool := s.p.getLsbD 4
/-- P.D, bit 3: decimal mode. -/
def State.fD (s : State) : Bool := s.p.getLsbD 3
/-- P.I, bit 2: IRQB disabled. -/
def State.fI (s : State) : Bool := s.p.getLsbD 2
/-- P.Z, bit 1. -/
def State.fZ (s : State) : Bool := s.p.getLsbD 1
/-- P.C, bit 0. -/
def State.fC (s : State) : Bool := s.p.getLsbD 0

/-- `wA`: the width of accumulator and memory data (00_scope.md R7). -/
def State.wA (s : State) : Width := if s.fM then .w8 else .w16

/-- `wX`: the width of index-register operations (R7). -/
def State.wX (s : State) : Width := if s.fX then .w8 else .w16

/-- Write one bit of P. -/
def State.setFlag (s : State) (i : Nat) (v : Bool) : State := { s with p := setBit s.p i v }

/-- P.N <- v. -/
def State.setN (s : State) (v : Bool) : State := s.setFlag 7 v
/-- P.V <- v. -/
def State.setV (s : State) (v : Bool) : State := s.setFlag 6 v
/-- P.D <- v. -/
def State.setD (s : State) (v : Bool) : State := s.setFlag 3 v
/-- P.I <- v. -/
def State.setI (s : State) (v : Bool) : State := s.setFlag 2 v
/-- P.Z <- v. -/
def State.setZ (s : State) (v : Bool) : State := s.setFlag 1 v
/-- P.C <- v. -/
def State.setC (s : State) (v : Bool) : State := s.setFlag 0 v

/-- `setNZ(v, w)` (R9). -/
def State.setNZ (s : State) (w : Width) (v : Word) : State := (s.setN (msb w v)).setZ (isZero w v)

/-! ### Registers -/

/-- `PC advances` by the instruction's length, inside the program bank (00_scope.md R12, 10_state.md R26). -/
def State.advance (s : State) (n : Nat) : State := { s with pc := s.pc + BitVec.ofNat 16 n }

/-- `PC <- target`. -/
def State.jump (s : State) (target : Word) : State := { s with pc := target }

/-- `PBR <- bank`. -/
def State.setPbr (s : State) (bank : Byte) : State := { s with pbr := bank }

/-- `DBR <- bank`. -/
def State.setDbr (s : State) (bank : Byte) : State := { s with dbr := bank }

/-- `D <- v`, always 16 bits (R37). -/
def State.setDirect (s : State) (v : Word) : State := { s with d := v }

/-- `C <- v`, all 16 bits. -/
def State.setC16 (s : State) (v : Word) : State := { s with c := v }

/-- `S <- v`, all 16 bits. -/
def State.setSp (s : State) (v : Word) : State := { s with sp := v }

/-- Write the accumulator at a width: at width 8 only A, with B kept (R21). -/
def State.setA (s : State) (w : Width) (v : Word) : State :=
  match w with
  | .w8 => { s with c := word (hi s.c) (lo v) }
  | .w16 => { s with c := v }

/-- Write X at a width: at width 8 the high byte becomes 00 (R23). -/
def State.setX (s : State) (w : Width) (v : Word) : State := { s with x := trunc w v }

/-- Write Y at a width: at width 8 the high byte becomes 00 (R23). -/
def State.setY (s : State) (w : Width) (v : Word) : State := { s with y := trunc w v }

/-- The high byte of an index register is lost where the flag X is 1 (R23). -/
def narrowIndex (flagX : Bool) (v : Word) : Word := if flagX then zext (lo v) else v

/-- What a write of P stores (45_status.md R290): in emulation mode bits 5 and 4 stay 1. -/
def forcedP (emulation : Bool) (v : Byte) : Byte := if emulation then v ||| 0x30#8 else v

/-- `WriteP(v)` (45_status.md R290): P is written, and where P.X becomes 1 the high bytes of X and Y are cleared at once. -/
def State.writeP (s : State) (v : Byte) : State :=
  let v' := forcedP s.e v
  { s with p := v', x := narrowIndex (v'.getLsbD 4) s.x, y := narrowIndex (v'.getLsbD 4) s.y }

/-- In emulation mode the high byte of S is 01 (R36). -/
def forcedSp (emulation : Bool) (v : Word) : Word := if emulation then word 0x01 (lo v) else v

/-- A write of S through TXS or TCS: in emulation mode SH stays 01 (R36; 43_transfer.md R256, R261). -/
def State.setSpMode (s : State) (v : Word) : State := { s with sp := forcedSp s.e v }

/-! ### Memory (00_scope.md R8) -/

/-- The byte memory holds at an address. -/
def State.readByte (s : State) (a : Addr) : Byte := Memory.read s.mem a.toNat

/-- The platform's own answer to a read, if it has one: the first in its list (65_pins_and_bus.md R467 a). -/
def answerFor : List Answer → CycleKind → Addr → Option Byte
  | [], _, _ => none
  | x :: rest, k, a => if x.kind = k ∧ x.addr = a then some x.byte else answerFor rest k a

/-- The answers left after a read: an answer that another one for the same kind and address follows is used up (log 1). -/
def useAnswer : List Answer → CycleKind → Addr → List Answer
  | [], _, _ => []
  | x :: rest, k, a =>
    if x.kind = k ∧ x.addr = a then (if (answerFor rest k a).isSome then rest else x :: rest)
    else x :: useAnswer rest k a

/-- What a read gets from a platform with these answers over this memory. -/
def memAnswer (answers : List Answer) (m : Memory) (k : CycleKind) (a : Addr) : Byte :=
  (answerFor answers k a).getD (Memory.read m a.toNat)

/-- `MemRead(a, 1)` in a cycle of a kind: the platform's answer, else the byte memory holds (00_scope.md R8; R467 a). -/
def State.memRead (s : State) (k : CycleKind) (a : Addr) : Byte := memAnswer s.pins.answers s.mem k a

/-- The state whose platform has answered these reads of one kind already in this step: what a later read of the step gets is
read from it. -/
def State.afterReads (s : State) (k : CycleKind) (as : List Addr) : State :=
  { s with pins := { s.pins with answers := as.foldl (useAnswer · k) s.pins.answers } }

/-- `MemWrite(a, 1, v)`: memory takes the byte; a platform that does otherwise says so in its next `changes` (log 1). -/
def State.writeByte (s : State) (a : Addr) (v : Byte) : State := { s with mem := Memory.write s.mem a.toNat v }

/-- The successor function of a locator (R8). -/
inductive Succ where
  | inc24
  | incBank
  | incPage
  deriving DecidableEq, Repr

/-- The address after `a` (R8). -/
def Succ.apply : Succ → Addr → Addr
  | .inc24, a => Machine.inc24 a
  | .incBank, a => Machine.incBank a
  | .incPage, a => Machine.incPage a

/-- An operand locator `(a0, next)` (R8). -/
structure Loc where
  a0 : Addr
  succ : Succ
  deriving DecidableEq, Repr

/-- The address of the operand's second byte. -/
def Loc.a1 (l : Loc) : Addr := l.succ.apply l.a0

/-- `ReadLoc(loc, w)` in cycles of a kind: low byte first (R8). -/
def State.loadLoc (s : State) (k : CycleKind) (w : Width) (l : Loc) : Word :=
  match w with
  | .w8 => zext (s.memRead k l.a0)
  | .w16 => word (s.memRead k l.a1) (s.memRead k l.a0)

/-- The datum memory holds at a locator. -/
def State.readLoc (s : State) (w : Width) (l : Loc) : Word :=
  match w with
  | .w8 => zext (s.readByte l.a0)
  | .w16 => word (s.readByte l.a1) (s.readByte l.a0)

/-- `WriteLoc(loc, w, v)`: low byte first (R8). -/
def State.writeLoc (s : State) (w : Width) (l : Loc) (v : Word) : State :=
  match w with
  | .w8 => s.writeByte l.a0 (lo v)
  | .w16 => (s.writeByte l.a0 (lo v)).writeByte l.a1 (hi v)

/-- The write-back of a read-modify-write instruction: high byte first (42_shift_rmw.md R240). -/
def State.writeBack (s : State) (w : Width) (l : Loc) (v : Word) : State :=
  match w with
  | .w8 => s.writeByte l.a0 (lo v)
  | .w16 => (s.writeByte l.a1 (hi v)).writeByte l.a0 (lo v)

/-- The bytes a datum of a width occupies. -/
def Loc.bytes (l : Loc) : Width → List Addr
  | .w8 => [l.a0]
  | .w16 => [l.a0, l.a1]

/-- A byte of the instruction stream, `k` bytes after the opcode (30_encoding.md R101). -/
def State.fetchByte (s : State) (k : Nat) : Byte :=
  s.memRead (if k = 0 then .opcode else .program) (addr s.pbr (s.pc + BitVec.ofNat 16 k))

/-- Operand byte `k` of the instruction at `old`'s PC, fetched after some of the instruction's own pushes (20_memory.md
R77, R85; log 11): `b`, unless those pushes changed what that read gets. -/
def refetch (old new : State) (k : Nat) (b : Byte) : Byte :=
  let a := addr old.pbr (old.pc + BitVec.ofNat 16 k)
  if new.memRead .program a = old.memRead .program a then b else new.memRead .program a

/-! ### The stack (00_scope.md R10) -/

/-- The next stack pointer of a one-byte push or pull: in emulation mode only SL moves. -/
def spStep (emulation : Bool) (sp : Word) (by_ : Word) : Word :=
  if emulation then word (hi sp) (lo sp + lo by_) else sp + by_

/-- `Push8(v)`: write at 00:S, then decrement, inside page 1 in emulation mode. -/
def State.push8 (s : State) (v : Byte) : State :=
  let t := s.writeByte (addr 0 s.sp) v
  { t with sp := spStep s.e s.sp 0xFFFF }

/-- `Push16(v)`: high byte first. -/
def State.push16 (s : State) (v : Word) : State := (s.push8 (hi v)).push8 (lo v)

/-- The stack pointer after `Pull8()` moved it. -/
def State.pullSp (s : State) : State := { s with sp := spStep s.e s.sp 0x0001 }

/-- `Pull8()`: increment S, then read at 00:S. -/
def State.pull8 (s : State) : Byte × State :=
  let t := s.pullSp
  (t.memRead .data (addr 0 t.sp), t)

/-- `Pull16()`: low byte first. -/
def State.pull16 (s : State) : Word × State :=
  let (l, s₁) := s.pull8
  let (h, s₂) := s₁.pull8
  (word h l, s₂)

/-- `PushN8(v)`: a push with 16-bit arithmetic on S in both modes. -/
def State.pushN8 (s : State) (v : Byte) : State :=
  let t := s.writeByte (addr 0 s.sp) v
  { t with sp := s.sp - 1 }

/-- `PushN16(v)`: high byte first. -/
def State.pushN16 (s : State) (v : Word) : State := (s.pushN8 (hi v)).pushN8 (lo v)

/-- `PullN8()`: a pull with 16-bit arithmetic on S in both modes. -/
def State.pullN8 (s : State) : Byte × State :=
  let t := { s with sp := s.sp + 1 }
  (t.memRead .data (addr 0 t.sp), t)

/-- `PullN16()`: low byte first. -/
def State.pullN16 (s : State) : Word × State :=
  let (l, s₁) := s.pullN8
  let (h, s₂) := s₁.pullN8
  (word h l, s₂)

/-- `if E = 1 then SH <- 01`, the end of every instruction that uses PushN8 or PullN8. -/
def State.fixSh (s : State) : State := { s with sp := forcedSp s.e s.sp }

/-! ### Interrupts (60_exceptions.md) -/

/-- The interrupt kinds whose sequence saves a frame (R401). RESET saves nothing (R406) and is `resetStep`. -/
inductive IntKind where
  | abort
  | nmi
  | irq
  | brk
  | cop
  deriving DecidableEq, Repr

/-- The vector of a kind in bank 0 (R402). -/
def IntKind.vector (k : IntKind) (emulation : Bool) : Word :=
  match k, emulation with
  | .irq, true => 0xFFFE
  | .nmi, true => 0xFFFA
  | .abort, true => 0xFFF8
  | .brk, true => 0xFFFE
  | .cop, true => 0xFFF4
  | .irq, false => 0xFFEE
  | .nmi, false => 0xFFEA
  | .abort, false => 0xFFE8
  | .brk, false => 0xFFE6
  | .cop, false => 0xFFE4

/-- The break flag a kind stacks in emulation mode: 1 for BRK and COP (R410 step 4, 92 D19). -/
def IntKind.breakFlag : IntKind → Bool
  | .brk => true
  | .cop => true
  | .irq => false
  | .nmi => false
  | .abort => false

/-- The byte of P that an interrupt stacks: P itself in native mode, and with bit 5 = 1 and the break flag in bit 4 in
emulation mode (R410 step 4, 10_state.md R33). -/
def stackedP (s : State) (k : IntKind) : Byte :=
  if s.e then setBit (setBit s.p 5 true) 4 k.breakFlag else s.p

/-- The word at a vector of bank 0, low byte first (R402, R410 step 7). -/
def State.readVector (s : State) (va : Word) : Word :=
  word (s.memRead .vector (addr 0 (va + 1))) (s.memRead .vector (addr 0 va))

/-- R410 steps 2 to 4: the frame. PBR is stacked in native mode only (R411). -/
def pushFrame (k : IntKind) (r : Word) (s : State) : State :=
  let s₁ := if s.e then s else s.push8 s.pbr
  (s₁.push16 r).push8 (stackedP s k)

/-- R410 steps 5 and 6: D = 0, I = 1, PBR = 00, and in emulation mode DBR = 00. -/
def enterHandlerMode (s : State) : State :=
  (((s.setD false).setI true).setPbr 0x00).setDbr (if s.e then 0x00 else s.dbr)

/-- R410 step 8: the latch of the kind is cleared. -/
def clearLatch (k : IntKind) (s : State) : State :=
  match k with
  | .nmi => { s with nmiPending := false }
  | .abort => { s with abortPending := false }
  | .irq => s
  | .brk => s
  | .cop => s

/-- Taking an interrupt: `Interrupt(kind)` with return address `r` (R410). -/
def interrupt (k : IntKind) (r : Word) (s : State) : State :=
  let s₁ := enterHandlerMode (pushFrame k r s)
  clearLatch k (s₁.jump (s₁.readVector (k.vector s.e)))

/-- The return from an interrupt: pull P, then PC, and in native mode PBR (R425; 48_system.md R332). The pulled address is
used as it is. -/
def returnFromInterrupt (s : State) : State :=
  let (v, s₁) := s.pull8
  let (pc, s₂) := (s₁.writeP v).pull16
  if s.e then s₂.jump pc
  else
    let (b, s₃) := s₂.pull8
    (s₃.jump pc).setPbr b

end Sys2Proof.Machine
end

