-- ==== Sys2Proof/Machine/Operands.lean ====
section
/-! DEFINITION. The addressing modes whose operand is in data memory, and the immediate (31_addressing_modes.md). Each mode
gives the locator of its operand; the pointer reads it makes itself are reads of the state it is given. -/

namespace Sys2Proof.Machine

/-- The fifteen modes whose operand is in data memory, with their operand bytes (30_encoding.md R102). -/
inductive MemMode where
  /-- `a` (R135). -/
  | abs (aa : Word)
  /-- `a,x` (R136). -/
  | absX (aa : Word)
  /-- `a,y` (R137). -/
  | absY (aa : Word)
  /-- `al` (R138). -/
  | long (aal : Addr)
  /-- `al,x` (R139). -/
  | longX (aal : Addr)
  /-- `d` (R142). -/
  | dir (dOff : Byte)
  /-- `d,x` (R143). -/
  | dirX (dOff : Byte)
  /-- `d,y` (R144). -/
  | dirY (dOff : Byte)
  /-- `(d)` (R145). -/
  | dirInd (dOff : Byte)
  /-- `(d,x)` (R146). -/
  | dirIndX (dOff : Byte)
  /-- `(d),y` (R147). -/
  | dirIndY (dOff : Byte)
  /-- `[d]` (R148). -/
  | dirIndLong (dOff : Byte)
  /-- `[d],y` (R149). -/
  | dirIndLongY (dOff : Byte)
  /-- `d,s` (R153). -/
  | sr (so : Byte)
  /-- `(d,s),y` (R154). -/
  | srIndY (so : Byte)
  deriving DecidableEq, Repr

/-- `Dir(DO, idx)` (R130): inside the direct page in emulation mode with DL = 00, else inside bank 0. -/
def dirLoc (s : State) (dOff : Byte) (idx : Word) : Loc :=
  if s.e && lo s.d == 0 then ⟨addr 0 (word (hi s.d) (dOff + lo idx)), .incPage⟩
  else ⟨addr 0 (s.d + zext dOff + idx), .incBank⟩

/-- `Lin(b, idx)` (R131): linear, the carry goes into the bank, modulo 2^24. -/
def linLoc (b : Addr) (idx : Word) : Loc := ⟨b + idx.setWidth 24, .inc24⟩

/-- The 16-bit pointer at a locator, low byte first (R145 to R147, R154). -/
def State.readPtr16 (s : State) (l : Loc) : Word := word (s.memRead .data l.a1) (s.memRead .data l.a0)

/-- The direct address of `[d]`, `[d],y` and PEI: never wrapped inside a page (R130, R148; 44_stack.md R285). -/
def dirLongLoc (s : State) (dOff : Byte) : Loc := ⟨addr 0 (s.d + zext dOff), .incBank⟩

/-- The 24-bit pointer of `[d]` and `[d],y` (R148). -/
def State.readPtr24 (s : State) (l : Loc) : Addr :=
  addr (s.memRead .data (l.succ.apply l.a1)) (word (s.memRead .data l.a1) (s.memRead .data l.a0))

/-- The stack-relative locator: a 16-bit sum in both modes (R153, 92 D5). -/
def srLoc (s : State) (so : Byte) : Loc := ⟨addr 0 (s.sp + zext so), .incBank⟩

/-- The locator of a mode's operand in a state (R135 to R154). -/
def MemMode.loc (m : MemMode) (s : State) : Loc :=
  match m with
  | .abs aa => linLoc (addr s.dbr aa) 0
  | .absX aa => linLoc (addr s.dbr aa) s.x
  | .absY aa => linLoc (addr s.dbr aa) s.y
  | .long aal => linLoc aal 0
  | .longX aal => linLoc aal s.x
  | .dir dOff => dirLoc s dOff 0
  | .dirX dOff => dirLoc s dOff s.x
  | .dirY dOff => dirLoc s dOff s.y
  | .dirInd dOff => linLoc (addr s.dbr (s.readPtr16 (dirLoc s dOff 0))) 0
  | .dirIndX dOff => linLoc (addr s.dbr (s.readPtr16 (dirLoc s dOff s.x))) 0
  | .dirIndY dOff => linLoc (addr s.dbr (s.readPtr16 (dirLoc s dOff 0))) s.y
  | .dirIndLong dOff => linLoc (s.readPtr24 (dirLongLoc s dOff)) 0
  | .dirIndLongY dOff => linLoc (s.readPtr24 (dirLongLoc s dOff)) s.y
  | .sr so => srLoc s so
  | .srIndY so => linLoc (addr s.dbr (s.readPtr16 (srLoc s so))) s.y

/-- The pointer bytes a mode reads before its operand, in bus order (R145 to R149, R154): data reads, as the operand's are. -/
def MemMode.pointers (m : MemMode) (s : State) : List Addr :=
  let two := fun l : Loc => [l.a0, l.a1]
  let three := fun l : Loc => [l.a0, l.a1, l.succ.apply l.a1]
  match m with
  | .dirInd dOff | .dirIndY dOff => two (dirLoc s dOff 0)
  | .dirIndX dOff => two (dirLoc s dOff s.x)
  | .dirIndLong dOff | .dirIndLongY dOff => three (dirLongLoc s dOff)
  | .srIndY so => two (srLoc s so)
  | .abs _ | .absX _ | .absY _ | .long _ | .longX _ | .dir _ | .dirX _ | .dirY _ | .sr _ => []

/-- The state in which a mode's operand is read: its pointer bytes have been read. -/
def MemMode.reached (m : MemMode) (s : State) : State := s.afterReads .data (m.pointers s)

/-- The length in bytes of an instruction in a memory mode (30_encoding.md R102). -/
def MemMode.len : MemMode → Nat
  | .abs _ | .absX _ | .absY _ => 3
  | .long _ | .longX _ => 4
  | .dir _ | .dirX _ | .dirY _ | .dirInd _ | .dirIndX _ | .dirIndY _ | .dirIndLong _ | .dirIndLongY _ => 2
  | .sr _ | .srIndY _ => 2

/-- An operand to be read: an immediate (R132) or one in memory. -/
inductive Operand where
  | imm (v : Word)
  | mem (m : MemMode)
  deriving DecidableEq, Repr

/-- `operand(w)`: the operand's value at a width, zero-extended (40_load_store.md R200, R132). -/
def Operand.read (o : Operand) (w : Width) (s : State) : Word :=
  match o with
  | .imm v => trunc w v
  | .mem m => (m.reached s).loadLoc .data w (m.loc s)

/-- The length of the instruction: an immediate is two bytes at width 8 and three at width 16 (30_encoding.md R103). -/
def Operand.len (o : Operand) (w : Width) : Nat :=
  match o, w with
  | .imm _, .w8 => 2
  | .imm _, .w16 => 3
  | .mem m, _ => m.len

/-! ### Control-transfer operands -/

/-- The branch target (R150): the address of the next instruction plus the signed offset, inside the bank. -/
def relTarget (s : State) (off : Byte) : Word := s.pc + 2 + sext off

/-- The long relative target (R151). -/
def relLongTarget (s : State) (off : Word) : Word := s.pc + 3 + off

/-- The two pointer bytes of `(a)`: in bank 0, wrapping inside it (R140). -/
def State.readAbsInd (s : State) (aa : Word) : Word :=
  word (s.memRead .data (addr 0 (aa + 1))) (s.memRead .data (addr 0 aa))

/-- The bank byte of the pointer of JML `(a)` (R140). -/
def State.readAbsIndBank (s : State) (aa : Word) : Byte := s.memRead .data (addr 0 (aa + 2))

/-- The state in which the pointer of `(a,x)` is read: the two operand bytes at PBR:PC+1 have been read, in cycles of the same
kind (71_bus_cycles.md R614, R615). -/
def State.afterOperand (s : State) : State := s.afterReads .program [addr s.pbr (s.pc + 1), addr s.pbr (s.pc + 2)]

/-- The pointer of `(a,x)`: in the program bank, wrapping inside it (R141). -/
def State.readAbsIndX (s : State) (aa : Word) : Word :=
  word (s.afterOperand.memRead .program (addr s.pbr (aa + s.x + 1)))
    (s.afterOperand.memRead .program (addr s.pbr (aa + s.x)))

end Sys2Proof.Machine
end

