-- ==== Sys2Proof/Machine/Control.lean ====
section
/-! DEFINITION. Branches, jumps, calls and returns (46_control_transfer.md R300 to R316). -/

namespace Sys2Proof.Machine

/-- A relative branch (R300): the target if the condition holds, else the next instruction. -/
def branch (cond : Bool) (off : Byte) (s : State) : State :=
  s.jump (if cond then relTarget s off else s.pc + 2)

/-- JSR `a` (R313): push the address of its own last byte; the pushes wrap in page 1 in emulation mode. -/
def callAbs (aa : Word) (s : State) : State := (s.push16 (s.pc + 2)).jump aa

/-- JSR `(a,x)` (R313): the bus order is AAL, the two pushes, AAH, the pointer (20_memory.md R77), so AAH is read after the
pushes (log 11). -/
def callAbsIndX (aa : Word) (s : State) : State :=
  let t := s.pushN16 (s.pc + 2)
  let target := word (refetch s t 2 (hi aa)) (lo aa)
  (t.jump (t.readAbsIndX target)).fixSh

/-- JSL (R314): the bus order is AAL, AAH, push of PBR, AAB, the two other pushes (20_memory.md R77), so AAB is read after
the push of PBR (log 11). -/
def callLong (aal : Addr) (s : State) : State :=
  let t := s.pushN8 s.pbr
  let bank := refetch s t 3 (bankOf aal)
  (((t.pushN16 (s.pc + 3)).jump (offOf aal)).setPbr bank).fixSh

/-- RTS (R315): pull the address and add 1. -/
def returnSub (s : State) : State :=
  let (v, t) := s.pull16
  t.jump (v + 1)

/-- RTL (R316): pull the address and the bank; the 1 added carries only inside the 16 bits. -/
def returnLong (s : State) : State :=
  let (v, t) := s.pullN16
  let (b, u) := t.pullN8
  ((u.jump (v + 1)).setPbr b).fixSh

/-! ### One meaning per opcode -/

/-- BCC `r` (90): R301, mode R150. -/
def execBcc (off : Byte) (s : State) : Result := .next (branch (!s.fC) off s)

/-- BCS `r` (B0): R302, mode R150. -/
def execBcs (off : Byte) (s : State) : Result := .next (branch s.fC off s)

/-- BEQ `r` (F0): R303, mode R150. -/
def execBeq (off : Byte) (s : State) : Result := .next (branch s.fZ off s)

/-- BMI `r` (30): R304, mode R150. -/
def execBmi (off : Byte) (s : State) : Result := .next (branch s.fN off s)

/-- BNE `r` (D0): R305, mode R150. -/
def execBne (off : Byte) (s : State) : Result := .next (branch (!s.fZ) off s)

/-- BPL `r` (10): R306, mode R150. -/
def execBpl (off : Byte) (s : State) : Result := .next (branch (!s.fN) off s)

/-- BVC `r` (50): R307, mode R150. -/
def execBvc (off : Byte) (s : State) : Result := .next (branch (!s.fV) off s)

/-- BVS `r` (70): R308, mode R150. -/
def execBvs (off : Byte) (s : State) : Result := .next (branch s.fV off s)

/-- BRA `r` (80): R309, mode R150. -/
def execBra (off : Byte) (s : State) : Result := .next (branch true off s)

/-- BRL `rl` (82): R310, mode R151. -/
def execBrl (off : Word) (s : State) : Result := .next (s.jump (relLongTarget s off))

/-- JMP `a` (4C): R311, mode R135. -/
def execJmpAbs (aa : Word) (s : State) : Result := .next (s.jump aa)

/-- JMP `al` (5C): R311, mode R138. -/
def execJmpLong (aal : Addr) (s : State) : Result := .next ((s.jump (offOf aal)).setPbr (bankOf aal))

/-- JMP `(a)` (6C): R311, mode R140. -/
def execJmpAbsInd (aa : Word) (s : State) : Result := .next (s.jump (s.readAbsInd aa))

/-- JMP `(a,x)` (7C): R311, mode R141. -/
def execJmpAbsIndX (aa : Word) (s : State) : Result := .next (s.jump (s.readAbsIndX aa))

/-- JML `(a)` (DC): R312, mode R140. -/
def execJml (aa : Word) (s : State) : Result := .next ((s.jump (s.readAbsInd aa)).setPbr (s.readAbsIndBank aa))

/-- JSR `a` (20): R313, mode R135. -/
def execJsrAbs (aa : Word) (s : State) : Result := .next (callAbs aa s)

/-- JSR `(a,x)` (FC): R313, mode R141. -/
def execJsrAbsIndX (aa : Word) (s : State) : Result := .next (callAbsIndX aa s)

/-- JSL `al` (22): R314, mode R138. -/
def execJsl (aal : Addr) (s : State) : Result := .next (callLong aal s)

/-- RTS `s` (60): R315, mode R152. -/
def execRts (s : State) : Result := .next (returnSub s)

/-- RTL `s` (6B): R316, mode R152. -/
def execRtl (s : State) : Result := .next (returnLong s)

end Sys2Proof.Machine
end

