-- ==== Sys2Proof/Syntax.lean ====
section
/-! DEFINITION. The instructions of the W65C816S: one constructor per row of spec/opcode_table.json
(30_encoding.md section 4), the opcodes with operand bytes first, in opcode order, then those of one byte. A field is an operand field of 30_encoding.md R102, already assembled by R104:
`aa` = AAH:AAL, `aal` = AAB:AAH:AAL, `dOff` = DO, `so` = SO, `off` = OFF or OFFH:OFFL, `dba`/`sba` = the bank bytes
of a block move, `sig` = the signature byte, `imm` = IDH:IDL. An immediate whose governing flag is 1 has no IDH byte:
its `imm` is 00:IDL (WellFormed.lean, log 12). -/

namespace Sys2Proof

/-- One constructor per opcode. The docstring gives the opcode byte, mnemonic, addressing-mode symbol, length, the rule
of the instruction and the rule of its addressing mode. -/
inductive Instr where
  /-- `00` BRK `s`, 2 bytes: R330, mode R152. -/
  | brk (sig : Byte)
  /-- `01` ORA `(d,x)`, 2 bytes: R226, mode R146. -/
  | oraDirIndX (dOff : Byte)
  /-- `02` COP `s`, 2 bytes: R331, mode R152. -/
  | cop (sig : Byte)
  /-- `03` ORA `d,s`, 2 bytes: R226, mode R153. -/
  | oraSr (so : Byte)
  /-- `04` TSB `d`, 2 bytes: R245, mode R142. -/
  | tsbDir (dOff : Byte)
  /-- `05` ORA `d`, 2 bytes: R226, mode R142. -/
  | oraDir (dOff : Byte)
  /-- `06` ASL `d`, 2 bytes: R241, mode R142. -/
  | aslDir (dOff : Byte)
  /-- `07` ORA `[d]`, 2 bytes: R226, mode R148. -/
  | oraDirIndLong (dOff : Byte)
  /-- `09` ORA `#`, 2 or 3 bytes: R226, mode R132. -/
  | oraImm (imm : Word)
  /-- `0C` TSB `a`, 3 bytes: R245, mode R135. -/
  | tsbAbs (aa : Word)
  /-- `0D` ORA `a`, 3 bytes: R226, mode R135. -/
  | oraAbs (aa : Word)
  /-- `0E` ASL `a`, 3 bytes: R241, mode R135. -/
  | aslAbs (aa : Word)
  /-- `0F` ORA `al`, 4 bytes: R226, mode R138. -/
  | oraLong (aal : Addr)
  /-- `10` BPL `r`, 2 bytes: R306, mode R150. -/
  | bpl (off : Byte)
  /-- `11` ORA `(d),y`, 2 bytes: R226, mode R147. -/
  | oraDirIndY (dOff : Byte)
  /-- `12` ORA `(d)`, 2 bytes: R226, mode R145. -/
  | oraDirInd (dOff : Byte)
  /-- `13` ORA `(d,s),y`, 2 bytes: R226, mode R154. -/
  | oraSrIndY (so : Byte)
  /-- `14` TRB `d`, 2 bytes: R246, mode R142. -/
  | trbDir (dOff : Byte)
  /-- `15` ORA `d,x`, 2 bytes: R226, mode R143. -/
  | oraDirX (dOff : Byte)
  /-- `16` ASL `d,x`, 2 bytes: R241, mode R143. -/
  | aslDirX (dOff : Byte)
  /-- `17` ORA `[d],y`, 2 bytes: R226, mode R149. -/
  | oraDirIndLongY (dOff : Byte)
  /-- `19` ORA `a,y`, 3 bytes: R226, mode R137. -/
  | oraAbsY (aa : Word)
  /-- `1C` TRB `a`, 3 bytes: R246, mode R135. -/
  | trbAbs (aa : Word)
  /-- `1D` ORA `a,x`, 3 bytes: R226, mode R136. -/
  | oraAbsX (aa : Word)
  /-- `1E` ASL `a,x`, 3 bytes: R241, mode R136. -/
  | aslAbsX (aa : Word)
  /-- `1F` ORA `al,x`, 4 bytes: R226, mode R139. -/
  | oraLongX (aal : Addr)
  /-- `20` JSR `a`, 3 bytes: R313, mode R135. -/
  | jsrAbs (aa : Word)
  /-- `21` AND `(d,x)`, 2 bytes: R225, mode R146. -/
  | andDirIndX (dOff : Byte)
  /-- `22` JSL `al`, 4 bytes: R314, mode R138. -/
  | jsl (aal : Addr)
  /-- `23` AND `d,s`, 2 bytes: R225, mode R153. -/
  | andSr (so : Byte)
  /-- `24` BIT `d`, 2 bytes: R231, mode R142. -/
  | bitDir (dOff : Byte)
  /-- `25` AND `d`, 2 bytes: R225, mode R142. -/
  | andDir (dOff : Byte)
  /-- `26` ROL `d`, 2 bytes: R243, mode R142. -/
  | rolDir (dOff : Byte)
  /-- `27` AND `[d]`, 2 bytes: R225, mode R148. -/
  | andDirIndLong (dOff : Byte)
  /-- `29` AND `#`, 2 or 3 bytes: R225, mode R132. -/
  | andImm (imm : Word)
  /-- `2C` BIT `a`, 3 bytes: R231, mode R135. -/
  | bitAbs (aa : Word)
  /-- `2D` AND `a`, 3 bytes: R225, mode R135. -/
  | andAbs (aa : Word)
  /-- `2E` ROL `a`, 3 bytes: R243, mode R135. -/
  | rolAbs (aa : Word)
  /-- `2F` AND `al`, 4 bytes: R225, mode R138. -/
  | andLong (aal : Addr)
  /-- `30` BMI `r`, 2 bytes: R304, mode R150. -/
  | bmi (off : Byte)
  /-- `31` AND `(d),y`, 2 bytes: R225, mode R147. -/
  | andDirIndY (dOff : Byte)
  /-- `32` AND `(d)`, 2 bytes: R225, mode R145. -/
  | andDirInd (dOff : Byte)
  /-- `33` AND `(d,s),y`, 2 bytes: R225, mode R154. -/
  | andSrIndY (so : Byte)
  /-- `34` BIT `d,x`, 2 bytes: R231, mode R143. -/
  | bitDirX (dOff : Byte)
  /-- `35` AND `d,x`, 2 bytes: R225, mode R143. -/
  | andDirX (dOff : Byte)
  /-- `36` ROL `d,x`, 2 bytes: R243, mode R143. -/
  | rolDirX (dOff : Byte)
  /-- `37` AND `[d],y`, 2 bytes: R225, mode R149. -/
  | andDirIndLongY (dOff : Byte)
  /-- `39` AND `a,y`, 3 bytes: R225, mode R137. -/
  | andAbsY (aa : Word)
  /-- `3C` BIT `a,x`, 3 bytes: R231, mode R136. -/
  | bitAbsX (aa : Word)
  /-- `3D` AND `a,x`, 3 bytes: R225, mode R136. -/
  | andAbsX (aa : Word)
  /-- `3E` ROL `a,x`, 3 bytes: R243, mode R136. -/
  | rolAbsX (aa : Word)
  /-- `3F` AND `al,x`, 4 bytes: R225, mode R139. -/
  | andLongX (aal : Addr)
  /-- `41` EOR `(d,x)`, 2 bytes: R227, mode R146. -/
  | eorDirIndX (dOff : Byte)
  /-- `42` WDM `i`, 2 bytes: R336, mode R134. -/
  | wdm (ignored : Byte)
  /-- `43` EOR `d,s`, 2 bytes: R227, mode R153. -/
  | eorSr (so : Byte)
  /-- `44` MVP `xyc`, 3 bytes: R322, mode R155. -/
  | mvp (dba : Byte) (sba : Byte)
  /-- `45` EOR `d`, 2 bytes: R227, mode R142. -/
  | eorDir (dOff : Byte)
  /-- `46` LSR `d`, 2 bytes: R242, mode R142. -/
  | lsrDir (dOff : Byte)
  /-- `47` EOR `[d]`, 2 bytes: R227, mode R148. -/
  | eorDirIndLong (dOff : Byte)
  /-- `49` EOR `#`, 2 or 3 bytes: R227, mode R132. -/
  | eorImm (imm : Word)
  /-- `4C` JMP `a`, 3 bytes: R311, mode R135. -/
  | jmpAbs (aa : Word)
  /-- `4D` EOR `a`, 3 bytes: R227, mode R135. -/
  | eorAbs (aa : Word)
  /-- `4E` LSR `a`, 3 bytes: R242, mode R135. -/
  | lsrAbs (aa : Word)
  /-- `4F` EOR `al`, 4 bytes: R227, mode R138. -/
  | eorLong (aal : Addr)
  /-- `50` BVC `r`, 2 bytes: R307, mode R150. -/
  | bvc (off : Byte)
  /-- `51` EOR `(d),y`, 2 bytes: R227, mode R147. -/
  | eorDirIndY (dOff : Byte)
  /-- `52` EOR `(d)`, 2 bytes: R227, mode R145. -/
  | eorDirInd (dOff : Byte)
  /-- `53` EOR `(d,s),y`, 2 bytes: R227, mode R154. -/
  | eorSrIndY (so : Byte)
  /-- `54` MVN `xyc`, 3 bytes: R321, mode R155. -/
  | mvn (dba : Byte) (sba : Byte)
  /-- `55` EOR `d,x`, 2 bytes: R227, mode R143. -/
  | eorDirX (dOff : Byte)
  /-- `56` LSR `d,x`, 2 bytes: R242, mode R143. -/
  | lsrDirX (dOff : Byte)
  /-- `57` EOR `[d],y`, 2 bytes: R227, mode R149. -/
  | eorDirIndLongY (dOff : Byte)
  /-- `59` EOR `a,y`, 3 bytes: R227, mode R137. -/
  | eorAbsY (aa : Word)
  /-- `5C` JMP `al`, 4 bytes: R311, mode R138. -/
  | jmpLong (aal : Addr)
  /-- `5D` EOR `a,x`, 3 bytes: R227, mode R136. -/
  | eorAbsX (aa : Word)
  /-- `5E` LSR `a,x`, 3 bytes: R242, mode R136. -/
  | lsrAbsX (aa : Word)
  /-- `5F` EOR `al,x`, 4 bytes: R227, mode R139. -/
  | eorLongX (aal : Addr)
  /-- `61` ADC `(d,x)`, 2 bytes: R223, mode R146. -/
  | adcDirIndX (dOff : Byte)
  /-- `62` PER `s`, 3 bytes: R286, mode R152. -/
  | per (off : Word)
  /-- `63` ADC `d,s`, 2 bytes: R223, mode R153. -/
  | adcSr (so : Byte)
  /-- `64` STZ `d`, 2 bytes: R207, mode R142. -/
  | stzDir (dOff : Byte)
  /-- `65` ADC `d`, 2 bytes: R223, mode R142. -/
  | adcDir (dOff : Byte)
  /-- `66` ROR `d`, 2 bytes: R244, mode R142. -/
  | rorDir (dOff : Byte)
  /-- `67` ADC `[d]`, 2 bytes: R223, mode R148. -/
  | adcDirIndLong (dOff : Byte)
  /-- `69` ADC `#`, 2 or 3 bytes: R223, mode R132. -/
  | adcImm (imm : Word)
  /-- `6C` JMP `(a)`, 3 bytes: R311, mode R140. -/
  | jmpAbsInd (aa : Word)
  /-- `6D` ADC `a`, 3 bytes: R223, mode R135. -/
  | adcAbs (aa : Word)
  /-- `6E` ROR `a`, 3 bytes: R244, mode R135. -/
  | rorAbs (aa : Word)
  /-- `6F` ADC `al`, 4 bytes: R223, mode R138. -/
  | adcLong (aal : Addr)
  /-- `70` BVS `r`, 2 bytes: R308, mode R150. -/
  | bvs (off : Byte)
  /-- `71` ADC `(d),y`, 2 bytes: R223, mode R147. -/
  | adcDirIndY (dOff : Byte)
  /-- `72` ADC `(d)`, 2 bytes: R223, mode R145. -/
  | adcDirInd (dOff : Byte)
  /-- `73` ADC `(d,s),y`, 2 bytes: R223, mode R154. -/
  | adcSrIndY (so : Byte)
  /-- `74` STZ `d,x`, 2 bytes: R207, mode R143. -/
  | stzDirX (dOff : Byte)
  /-- `75` ADC `d,x`, 2 bytes: R223, mode R143. -/
  | adcDirX (dOff : Byte)
  /-- `76` ROR `d,x`, 2 bytes: R244, mode R143. -/
  | rorDirX (dOff : Byte)
  /-- `77` ADC `[d],y`, 2 bytes: R223, mode R149. -/
  | adcDirIndLongY (dOff : Byte)
  /-- `79` ADC `a,y`, 3 bytes: R223, mode R137. -/
  | adcAbsY (aa : Word)
  /-- `7C` JMP `(a,x)`, 3 bytes: R311, mode R141. -/
  | jmpAbsIndX (aa : Word)
  /-- `7D` ADC `a,x`, 3 bytes: R223, mode R136. -/
  | adcAbsX (aa : Word)
  /-- `7E` ROR `a,x`, 3 bytes: R244, mode R136. -/
  | rorAbsX (aa : Word)
  /-- `7F` ADC `al,x`, 4 bytes: R223, mode R139. -/
  | adcLongX (aal : Addr)
  /-- `80` BRA `r`, 2 bytes: R309, mode R150. -/
  | bra (off : Byte)
  /-- `81` STA `(d,x)`, 2 bytes: R204, mode R146. -/
  | staDirIndX (dOff : Byte)
  /-- `82` BRL `rl`, 3 bytes: R310, mode R151. -/
  | brl (off : Word)
  /-- `83` STA `d,s`, 2 bytes: R204, mode R153. -/
  | staSr (so : Byte)
  /-- `84` STY `d`, 2 bytes: R206, mode R142. -/
  | styDir (dOff : Byte)
  /-- `85` STA `d`, 2 bytes: R204, mode R142. -/
  | staDir (dOff : Byte)
  /-- `86` STX `d`, 2 bytes: R205, mode R142. -/
  | stxDir (dOff : Byte)
  /-- `87` STA `[d]`, 2 bytes: R204, mode R148. -/
  | staDirIndLong (dOff : Byte)
  /-- `89` BIT `#`, 2 or 3 bytes: R231, mode R132. -/
  | bitImm (imm : Word)
  /-- `8C` STY `a`, 3 bytes: R206, mode R135. -/
  | styAbs (aa : Word)
  /-- `8D` STA `a`, 3 bytes: R204, mode R135. -/
  | staAbs (aa : Word)
  /-- `8E` STX `a`, 3 bytes: R205, mode R135. -/
  | stxAbs (aa : Word)
  /-- `8F` STA `al`, 4 bytes: R204, mode R138. -/
  | staLong (aal : Addr)
  /-- `90` BCC `r`, 2 bytes: R301, mode R150. -/
  | bcc (off : Byte)
  /-- `91` STA `(d),y`, 2 bytes: R204, mode R147. -/
  | staDirIndY (dOff : Byte)
  /-- `92` STA `(d)`, 2 bytes: R204, mode R145. -/
  | staDirInd (dOff : Byte)
  /-- `93` STA `(d,s),y`, 2 bytes: R204, mode R154. -/
  | staSrIndY (so : Byte)
  /-- `94` STY `d,x`, 2 bytes: R206, mode R143. -/
  | styDirX (dOff : Byte)
  /-- `95` STA `d,x`, 2 bytes: R204, mode R143. -/
  | staDirX (dOff : Byte)
  /-- `96` STX `d,y`, 2 bytes: R205, mode R144. -/
  | stxDirY (dOff : Byte)
  /-- `97` STA `[d],y`, 2 bytes: R204, mode R149. -/
  | staDirIndLongY (dOff : Byte)
  /-- `99` STA `a,y`, 3 bytes: R204, mode R137. -/
  | staAbsY (aa : Word)
  /-- `9C` STZ `a`, 3 bytes: R207, mode R135. -/
  | stzAbs (aa : Word)
  /-- `9D` STA `a,x`, 3 bytes: R204, mode R136. -/
  | staAbsX (aa : Word)
  /-- `9E` STZ `a,x`, 3 bytes: R207, mode R136. -/
  | stzAbsX (aa : Word)
  /-- `9F` STA `al,x`, 4 bytes: R204, mode R139. -/
  | staLongX (aal : Addr)
  /-- `A0` LDY `#`, 2 or 3 bytes: R203, mode R132. -/
  | ldyImm (imm : Word)
  /-- `A1` LDA `(d,x)`, 2 bytes: R201, mode R146. -/
  | ldaDirIndX (dOff : Byte)
  /-- `A2` LDX `#`, 2 or 3 bytes: R202, mode R132. -/
  | ldxImm (imm : Word)
  /-- `A3` LDA `d,s`, 2 bytes: R201, mode R153. -/
  | ldaSr (so : Byte)
  /-- `A4` LDY `d`, 2 bytes: R203, mode R142. -/
  | ldyDir (dOff : Byte)
  /-- `A5` LDA `d`, 2 bytes: R201, mode R142. -/
  | ldaDir (dOff : Byte)
  /-- `A6` LDX `d`, 2 bytes: R202, mode R142. -/
  | ldxDir (dOff : Byte)
  /-- `A7` LDA `[d]`, 2 bytes: R201, mode R148. -/
  | ldaDirIndLong (dOff : Byte)
  /-- `A9` LDA `#`, 2 or 3 bytes: R201, mode R132. -/
  | ldaImm (imm : Word)
  /-- `AC` LDY `a`, 3 bytes: R203, mode R135. -/
  | ldyAbs (aa : Word)
  /-- `AD` LDA `a`, 3 bytes: R201, mode R135. -/
  | ldaAbs (aa : Word)
  /-- `AE` LDX `a`, 3 bytes: R202, mode R135. -/
  | ldxAbs (aa : Word)
  /-- `AF` LDA `al`, 4 bytes: R201, mode R138. -/
  | ldaLong (aal : Addr)
  /-- `B0` BCS `r`, 2 bytes: R302, mode R150. -/
  | bcs (off : Byte)
  /-- `B1` LDA `(d),y`, 2 bytes: R201, mode R147. -/
  | ldaDirIndY (dOff : Byte)
  /-- `B2` LDA `(d)`, 2 bytes: R201, mode R145. -/
  | ldaDirInd (dOff : Byte)
  /-- `B3` LDA `(d,s),y`, 2 bytes: R201, mode R154. -/
  | ldaSrIndY (so : Byte)
  /-- `B4` LDY `d,x`, 2 bytes: R203, mode R143. -/
  | ldyDirX (dOff : Byte)
  /-- `B5` LDA `d,x`, 2 bytes: R201, mode R143. -/
  | ldaDirX (dOff : Byte)
  /-- `B6` LDX `d,y`, 2 bytes: R202, mode R144. -/
  | ldxDirY (dOff : Byte)
  /-- `B7` LDA `[d],y`, 2 bytes: R201, mode R149. -/
  | ldaDirIndLongY (dOff : Byte)
  /-- `B9` LDA `a,y`, 3 bytes: R201, mode R137. -/
  | ldaAbsY (aa : Word)
  /-- `BC` LDY `a,x`, 3 bytes: R203, mode R136. -/
  | ldyAbsX (aa : Word)
  /-- `BD` LDA `a,x`, 3 bytes: R201, mode R136. -/
  | ldaAbsX (aa : Word)
  /-- `BE` LDX `a,y`, 3 bytes: R202, mode R137. -/
  | ldxAbsY (aa : Word)
  /-- `BF` LDA `al,x`, 4 bytes: R201, mode R139. -/
  | ldaLongX (aal : Addr)
  /-- `C0` CPY `#`, 2 or 3 bytes: R230, mode R132. -/
  | cpyImm (imm : Word)
  /-- `C1` CMP `(d,x)`, 2 bytes: R228, mode R146. -/
  | cmpDirIndX (dOff : Byte)
  /-- `C2` REP `#`, 2 bytes: R298, mode R132. -/
  | rep (mask : Byte)
  /-- `C3` CMP `d,s`, 2 bytes: R228, mode R153. -/
  | cmpSr (so : Byte)
  /-- `C4` CPY `d`, 2 bytes: R230, mode R142. -/
  | cpyDir (dOff : Byte)
  /-- `C5` CMP `d`, 2 bytes: R228, mode R142. -/
  | cmpDir (dOff : Byte)
  /-- `C6` DEC `d`, 2 bytes: R233, mode R142. -/
  | decDir (dOff : Byte)
  /-- `C7` CMP `[d]`, 2 bytes: R228, mode R148. -/
  | cmpDirIndLong (dOff : Byte)
  /-- `C9` CMP `#`, 2 or 3 bytes: R228, mode R132. -/
  | cmpImm (imm : Word)
  /-- `CC` CPY `a`, 3 bytes: R230, mode R135. -/
  | cpyAbs (aa : Word)
  /-- `CD` CMP `a`, 3 bytes: R228, mode R135. -/
  | cmpAbs (aa : Word)
  /-- `CE` DEC `a`, 3 bytes: R233, mode R135. -/
  | decAbs (aa : Word)
  /-- `CF` CMP `al`, 4 bytes: R228, mode R138. -/
  | cmpLong (aal : Addr)
  /-- `D0` BNE `r`, 2 bytes: R305, mode R150. -/
  | bne (off : Byte)
  /-- `D1` CMP `(d),y`, 2 bytes: R228, mode R147. -/
  | cmpDirIndY (dOff : Byte)
  /-- `D2` CMP `(d)`, 2 bytes: R228, mode R145. -/
  | cmpDirInd (dOff : Byte)
  /-- `D3` CMP `(d,s),y`, 2 bytes: R228, mode R154. -/
  | cmpSrIndY (so : Byte)
  /-- `D4` PEI `s`, 2 bytes: R285, mode R152. -/
  | pei (dOff : Byte)
  /-- `D5` CMP `d,x`, 2 bytes: R228, mode R143. -/
  | cmpDirX (dOff : Byte)
  /-- `D6` DEC `d,x`, 2 bytes: R233, mode R143. -/
  | decDirX (dOff : Byte)
  /-- `D7` CMP `[d],y`, 2 bytes: R228, mode R149. -/
  | cmpDirIndLongY (dOff : Byte)
  /-- `D9` CMP `a,y`, 3 bytes: R228, mode R137. -/
  | cmpAbsY (aa : Word)
  /-- `DC` JML `(a)`, 3 bytes: R312, mode R140. -/
  | jml (aa : Word)
  /-- `DD` CMP `a,x`, 3 bytes: R228, mode R136. -/
  | cmpAbsX (aa : Word)
  /-- `DE` DEC `a,x`, 3 bytes: R233, mode R136. -/
  | decAbsX (aa : Word)
  /-- `DF` CMP `al,x`, 4 bytes: R228, mode R139. -/
  | cmpLongX (aal : Addr)
  /-- `E0` CPX `#`, 2 or 3 bytes: R229, mode R132. -/
  | cpxImm (imm : Word)
  /-- `E1` SBC `(d,x)`, 2 bytes: R224, mode R146. -/
  | sbcDirIndX (dOff : Byte)
  /-- `E2` SEP `#`, 2 bytes: R299, mode R132. -/
  | sep (mask : Byte)
  /-- `E3` SBC `d,s`, 2 bytes: R224, mode R153. -/
  | sbcSr (so : Byte)
  /-- `E4` CPX `d`, 2 bytes: R229, mode R142. -/
  | cpxDir (dOff : Byte)
  /-- `E5` SBC `d`, 2 bytes: R224, mode R142. -/
  | sbcDir (dOff : Byte)
  /-- `E6` INC `d`, 2 bytes: R232, mode R142. -/
  | incDir (dOff : Byte)
  /-- `E7` SBC `[d]`, 2 bytes: R224, mode R148. -/
  | sbcDirIndLong (dOff : Byte)
  /-- `E9` SBC `#`, 2 or 3 bytes: R224, mode R132. -/
  | sbcImm (imm : Word)
  /-- `EC` CPX `a`, 3 bytes: R229, mode R135. -/
  | cpxAbs (aa : Word)
  /-- `ED` SBC `a`, 3 bytes: R224, mode R135. -/
  | sbcAbs (aa : Word)
  /-- `EE` INC `a`, 3 bytes: R232, mode R135. -/
  | incAbs (aa : Word)
  /-- `EF` SBC `al`, 4 bytes: R224, mode R138. -/
  | sbcLong (aal : Addr)
  /-- `F0` BEQ `r`, 2 bytes: R303, mode R150. -/
  | beq (off : Byte)
  /-- `F1` SBC `(d),y`, 2 bytes: R224, mode R147. -/
  | sbcDirIndY (dOff : Byte)
  /-- `F2` SBC `(d)`, 2 bytes: R224, mode R145. -/
  | sbcDirInd (dOff : Byte)
  /-- `F3` SBC `(d,s),y`, 2 bytes: R224, mode R154. -/
  | sbcSrIndY (so : Byte)
  /-- `F4` PEA `s`, 3 bytes: R284, mode R152. -/
  | pea (aa : Word)
  /-- `F5` SBC `d,x`, 2 bytes: R224, mode R143. -/
  | sbcDirX (dOff : Byte)
  /-- `F6` INC `d,x`, 2 bytes: R232, mode R143. -/
  | incDirX (dOff : Byte)
  /-- `F7` SBC `[d],y`, 2 bytes: R224, mode R149. -/
  | sbcDirIndLongY (dOff : Byte)
  /-- `F9` SBC `a,y`, 3 bytes: R224, mode R137. -/
  | sbcAbsY (aa : Word)
  /-- `FC` JSR `(a,x)`, 3 bytes: R313, mode R141. -/
  | jsrAbsIndX (aa : Word)
  /-- `FD` SBC `a,x`, 3 bytes: R224, mode R136. -/
  | sbcAbsX (aa : Word)
  /-- `FE` INC `a,x`, 3 bytes: R232, mode R136. -/
  | incAbsX (aa : Word)
  /-- `FF` SBC `al,x`, 4 bytes: R224, mode R139. -/
  | sbcLongX (aal : Addr)
  /-- `08` PHP `s`, 1 byte: R275, mode R152. -/
  | php
  /-- `0A` ASL `A`, 1 byte: R241, mode R133. -/
  | aslAcc
  /-- `0B` PHD `s`, 1 byte: R273, mode R152. -/
  | phd
  /-- `18` CLC `i`, 1 byte: R291, mode R134. -/
  | clc
  /-- `1A` INC `A`, 1 byte: R232, mode R133. -/
  | incAcc
  /-- `1B` TCS `i`, 1 byte: R261, mode R134. -/
  | tcs
  /-- `28` PLP `s`, 1 byte: R281, mode R152. -/
  | plp
  /-- `2A` ROL `A`, 1 byte: R243, mode R133. -/
  | rolAcc
  /-- `2B` PLD `s`, 1 byte: R280, mode R152. -/
  | pld
  /-- `38` SEC `i`, 1 byte: R295, mode R134. -/
  | sec
  /-- `3A` DEC `A`, 1 byte: R233, mode R133. -/
  | decAcc
  /-- `3B` TSC `i`, 1 byte: R262, mode R134. -/
  | tsc
  /-- `40` RTI `s`, 1 byte: R332, mode R152. -/
  | rti
  /-- `48` PHA `s`, 1 byte: R271, mode R152. -/
  | pha
  /-- `4A` LSR `A`, 1 byte: R242, mode R133. -/
  | lsrAcc
  /-- `4B` PHK `s`, 1 byte: R274, mode R152. -/
  | phk
  /-- `58` CLI `i`, 1 byte: R293, mode R134. -/
  | cli
  /-- `5A` PHY `s`, 1 byte: R277, mode R152. -/
  | phy
  /-- `5B` TCD `i`, 1 byte: R259, mode R134. -/
  | tcd
  /-- `60` RTS `s`, 1 byte: R315, mode R152. -/
  | rts
  /-- `68` PLA `s`, 1 byte: R278, mode R152. -/
  | pla
  /-- `6A` ROR `A`, 1 byte: R244, mode R133. -/
  | rorAcc
  /-- `6B` RTL `s`, 1 byte: R316, mode R152. -/
  | rtl
  /-- `78` SEI `i`, 1 byte: R297, mode R134. -/
  | sei
  /-- `7A` PLY `s`, 1 byte: R283, mode R152. -/
  | ply
  /-- `7B` TDC `i`, 1 byte: R260, mode R134. -/
  | tdc
  /-- `88` DEY `i`, 1 byte: R237, mode R134. -/
  | dey
  /-- `8A` TXA `i`, 1 byte: R253, mode R134. -/
  | txa
  /-- `8B` PHB `s`, 1 byte: R272, mode R152. -/
  | phb
  /-- `98` TYA `i`, 1 byte: R254, mode R134. -/
  | tya
  /-- `9A` TXS `i`, 1 byte: R256, mode R134. -/
  | txs
  /-- `9B` TXY `i`, 1 byte: R257, mode R134. -/
  | txy
  /-- `A8` TAY `i`, 1 byte: R252, mode R134. -/
  | tay
  /-- `AA` TAX `i`, 1 byte: R251, mode R134. -/
  | tax
  /-- `AB` PLB `s`, 1 byte: R279, mode R152. -/
  | plb
  /-- `B8` CLV `i`, 1 byte: R294, mode R134. -/
  | clv
  /-- `BA` TSX `i`, 1 byte: R255, mode R134. -/
  | tsx
  /-- `BB` TYX `i`, 1 byte: R258, mode R134. -/
  | tyx
  /-- `C8` INY `i`, 1 byte: R235, mode R134. -/
  | iny
  /-- `CA` DEX `i`, 1 byte: R236, mode R134. -/
  | dex
  /-- `CB` WAI `i`, 1 byte: R334, mode R134. -/
  | wai
  /-- `D8` CLD `i`, 1 byte: R292, mode R134. -/
  | cld
  /-- `DA` PHX `s`, 1 byte: R276, mode R152. -/
  | phx
  /-- `DB` STP `i`, 1 byte: R335, mode R134. -/
  | stp
  /-- `E8` INX `i`, 1 byte: R234, mode R134. -/
  | inx
  /-- `EA` NOP `i`, 1 byte: R333, mode R134. -/
  | nop
  /-- `EB` XBA `i`, 1 byte: R264, mode R134. -/
  | xba
  /-- `F8` SED `i`, 1 byte: R296, mode R134. -/
  | sed
  /-- `FA` PLX `s`, 1 byte: R282, mode R152. -/
  | plx
  /-- `FB` XCE `i`, 1 byte: R263, mode R134. -/
  | xce
  deriving DecidableEq, Repr

end Sys2Proof
end

