-- ==== Sys2Proof/WellFormed.lean ====
section
/-! DEFINITION. Which instruction terms an instruction stream can hold, for given width flags (30_encoding.md R103,
R104). Everything but an immediate is well formed at every field value: all 256 opcodes and all operand bytes are
legal (R106). -/

namespace Sys2Proof

open Machine

/-- The flags that govern the length of an immediate: `m` is P.M and `x` is P.X, true for 8 bits (R103). -/
structure Widths where
  m : Bool
  x : Bool
  deriving DecidableEq, Repr

/-- Does an immediate fit its width? With the flag 1 the instruction holds IDL alone, so IDH is 0 (R103). -/
def immFits (flag : Bool) (imm : Word) : Bool := !flag || hi imm == 0

/-- An instruction term that some bytes decode to under the width flags (R103). -/
def Instr.wellFormed (f : Widths) : Instr → Bool
  | .oraImm imm | .andImm imm | .eorImm imm | .adcImm imm
  | .bitImm imm | .ldaImm imm | .cmpImm imm | .sbcImm imm => immFits f.m imm
  | .ldyImm imm | .ldxImm imm | .cpyImm imm | .cpxImm imm => immFits f.x imm
  | _ => true

/-- Well-formedness as a proposition. -/
abbrev WellFormed (f : Widths) (i : Instr) : Prop := i.wellFormed f = true

end Sys2Proof
end

