-- ==== Sys2Proof/Decode.lean ====
section
/-! DEFINITION. Decoding and encoding (30_encoding.md R100 to R107). The opcode matrix is written as DS Table 6-4
draws it: sixteen rows (the high nibble) of sixteen columns (the low nibble). An instruction is a string of bytes at
ascending addresses, the opcode first (R101), operands low byte first (R74, R102). -/

namespace Sys2Proof

open Machine

/-- Why bytes do not decode. No byte value is refused (R106): bytes can only be too few. -/
inductive DecodeError where
  /-- There is no opcode byte. -/
  | noOpcode
  /-- The instruction has more operand bytes than are given. -/
  | truncated (opcode : Byte)
  deriving DecidableEq, Repr

/-- The operand bytes 1 to 3 that follow an opcode, and the flags that govern immediates (R101, R103). -/
structure Operands where
  f : Widths
  b1 : Byte
  b2 : Byte
  b3 : Byte
  deriving DecidableEq, Repr

/-- A 16-bit operand `b2:b1` (R104). -/
def Operands.w (o : Operands) : Word := word o.b2 o.b1

/-- A 24-bit operand `b3:b2:b1` (R104). -/
def Operands.l (o : Operands) : Addr := addr o.b3 (word o.b2 o.b1)

/-- An immediate governed by a flag: IDL alone where the flag is 1, IDH:IDL where it is 0 (R103, R104). -/
def Operands.imm (o : Operands) (flag : Bool) : Word := if flag then zext o.b1 else o.w

/-- Row 0 of the opcode matrix: opcodes 00 to 0F by column. -/
def decodeRow0 (o : Operands) : Nat → Instr
  | 0 => .brk o.b1
  | 1 => .oraDirIndX o.b1
  | 2 => .cop o.b1
  | 3 => .oraSr o.b1
  | 4 => .tsbDir o.b1
  | 5 => .oraDir o.b1
  | 6 => .aslDir o.b1
  | 7 => .oraDirIndLong o.b1
  | 8 => .php
  | 9 => .oraImm (o.imm o.f.m)
  | 10 => .aslAcc
  | 11 => .phd
  | 12 => .tsbAbs o.w
  | 13 => .oraAbs o.w
  | 14 => .aslAbs o.w
  | _ => .oraLong o.l

/-- Row 1 of the opcode matrix: opcodes 10 to 1F by column. -/
def decodeRow1 (o : Operands) : Nat → Instr
  | 0 => .bpl o.b1
  | 1 => .oraDirIndY o.b1
  | 2 => .oraDirInd o.b1
  | 3 => .oraSrIndY o.b1
  | 4 => .trbDir o.b1
  | 5 => .oraDirX o.b1
  | 6 => .aslDirX o.b1
  | 7 => .oraDirIndLongY o.b1
  | 8 => .clc
  | 9 => .oraAbsY o.w
  | 10 => .incAcc
  | 11 => .tcs
  | 12 => .trbAbs o.w
  | 13 => .oraAbsX o.w
  | 14 => .aslAbsX o.w
  | _ => .oraLongX o.l

/-- Row 2 of the opcode matrix: opcodes 20 to 2F by column. -/
def decodeRow2 (o : Operands) : Nat → Instr
  | 0 => .jsrAbs o.w
  | 1 => .andDirIndX o.b1
  | 2 => .jsl o.l
  | 3 => .andSr o.b1
  | 4 => .bitDir o.b1
  | 5 => .andDir o.b1
  | 6 => .rolDir o.b1
  | 7 => .andDirIndLong o.b1
  | 8 => .plp
  | 9 => .andImm (o.imm o.f.m)
  | 10 => .rolAcc
  | 11 => .pld
  | 12 => .bitAbs o.w
  | 13 => .andAbs o.w
  | 14 => .rolAbs o.w
  | _ => .andLong o.l

/-- Row 3 of the opcode matrix: opcodes 30 to 3F by column. -/
def decodeRow3 (o : Operands) : Nat → Instr
  | 0 => .bmi o.b1
  | 1 => .andDirIndY o.b1
  | 2 => .andDirInd o.b1
  | 3 => .andSrIndY o.b1
  | 4 => .bitDirX o.b1
  | 5 => .andDirX o.b1
  | 6 => .rolDirX o.b1
  | 7 => .andDirIndLongY o.b1
  | 8 => .sec
  | 9 => .andAbsY o.w
  | 10 => .decAcc
  | 11 => .tsc
  | 12 => .bitAbsX o.w
  | 13 => .andAbsX o.w
  | 14 => .rolAbsX o.w
  | _ => .andLongX o.l

/-- Row 4 of the opcode matrix: opcodes 40 to 4F by column. -/
def decodeRow4 (o : Operands) : Nat → Instr
  | 0 => .rti
  | 1 => .eorDirIndX o.b1
  | 2 => .wdm o.b1
  | 3 => .eorSr o.b1
  | 4 => .mvp o.b1 o.b2
  | 5 => .eorDir o.b1
  | 6 => .lsrDir o.b1
  | 7 => .eorDirIndLong o.b1
  | 8 => .pha
  | 9 => .eorImm (o.imm o.f.m)
  | 10 => .lsrAcc
  | 11 => .phk
  | 12 => .jmpAbs o.w
  | 13 => .eorAbs o.w
  | 14 => .lsrAbs o.w
  | _ => .eorLong o.l

/-- Row 5 of the opcode matrix: opcodes 50 to 5F by column. -/
def decodeRow5 (o : Operands) : Nat → Instr
  | 0 => .bvc o.b1
  | 1 => .eorDirIndY o.b1
  | 2 => .eorDirInd o.b1
  | 3 => .eorSrIndY o.b1
  | 4 => .mvn o.b1 o.b2
  | 5 => .eorDirX o.b1
  | 6 => .lsrDirX o.b1
  | 7 => .eorDirIndLongY o.b1
  | 8 => .cli
  | 9 => .eorAbsY o.w
  | 10 => .phy
  | 11 => .tcd
  | 12 => .jmpLong o.l
  | 13 => .eorAbsX o.w
  | 14 => .lsrAbsX o.w
  | _ => .eorLongX o.l

/-- Row 6 of the opcode matrix: opcodes 60 to 6F by column. -/
def decodeRow6 (o : Operands) : Nat → Instr
  | 0 => .rts
  | 1 => .adcDirIndX o.b1
  | 2 => .per o.w
  | 3 => .adcSr o.b1
  | 4 => .stzDir o.b1
  | 5 => .adcDir o.b1
  | 6 => .rorDir o.b1
  | 7 => .adcDirIndLong o.b1
  | 8 => .pla
  | 9 => .adcImm (o.imm o.f.m)
  | 10 => .rorAcc
  | 11 => .rtl
  | 12 => .jmpAbsInd o.w
  | 13 => .adcAbs o.w
  | 14 => .rorAbs o.w
  | _ => .adcLong o.l

/-- Row 7 of the opcode matrix: opcodes 70 to 7F by column. -/
def decodeRow7 (o : Operands) : Nat → Instr
  | 0 => .bvs o.b1
  | 1 => .adcDirIndY o.b1
  | 2 => .adcDirInd o.b1
  | 3 => .adcSrIndY o.b1
  | 4 => .stzDirX o.b1
  | 5 => .adcDirX o.b1
  | 6 => .rorDirX o.b1
  | 7 => .adcDirIndLongY o.b1
  | 8 => .sei
  | 9 => .adcAbsY o.w
  | 10 => .ply
  | 11 => .tdc
  | 12 => .jmpAbsIndX o.w
  | 13 => .adcAbsX o.w
  | 14 => .rorAbsX o.w
  | _ => .adcLongX o.l

/-- Row 8 of the opcode matrix: opcodes 80 to 8F by column. -/
def decodeRow8 (o : Operands) : Nat → Instr
  | 0 => .bra o.b1
  | 1 => .staDirIndX o.b1
  | 2 => .brl o.w
  | 3 => .staSr o.b1
  | 4 => .styDir o.b1
  | 5 => .staDir o.b1
  | 6 => .stxDir o.b1
  | 7 => .staDirIndLong o.b1
  | 8 => .dey
  | 9 => .bitImm (o.imm o.f.m)
  | 10 => .txa
  | 11 => .phb
  | 12 => .styAbs o.w
  | 13 => .staAbs o.w
  | 14 => .stxAbs o.w
  | _ => .staLong o.l

/-- Row 9 of the opcode matrix: opcodes 90 to 9F by column. -/
def decodeRow9 (o : Operands) : Nat → Instr
  | 0 => .bcc o.b1
  | 1 => .staDirIndY o.b1
  | 2 => .staDirInd o.b1
  | 3 => .staSrIndY o.b1
  | 4 => .styDirX o.b1
  | 5 => .staDirX o.b1
  | 6 => .stxDirY o.b1
  | 7 => .staDirIndLongY o.b1
  | 8 => .tya
  | 9 => .staAbsY o.w
  | 10 => .txs
  | 11 => .txy
  | 12 => .stzAbs o.w
  | 13 => .staAbsX o.w
  | 14 => .stzAbsX o.w
  | _ => .staLongX o.l

/-- Row A of the opcode matrix: opcodes A0 to AF by column. -/
def decodeRowA (o : Operands) : Nat → Instr
  | 0 => .ldyImm (o.imm o.f.x)
  | 1 => .ldaDirIndX o.b1
  | 2 => .ldxImm (o.imm o.f.x)
  | 3 => .ldaSr o.b1
  | 4 => .ldyDir o.b1
  | 5 => .ldaDir o.b1
  | 6 => .ldxDir o.b1
  | 7 => .ldaDirIndLong o.b1
  | 8 => .tay
  | 9 => .ldaImm (o.imm o.f.m)
  | 10 => .tax
  | 11 => .plb
  | 12 => .ldyAbs o.w
  | 13 => .ldaAbs o.w
  | 14 => .ldxAbs o.w
  | _ => .ldaLong o.l

/-- Row B of the opcode matrix: opcodes B0 to BF by column. -/
def decodeRowB (o : Operands) : Nat → Instr
  | 0 => .bcs o.b1
  | 1 => .ldaDirIndY o.b1
  | 2 => .ldaDirInd o.b1
  | 3 => .ldaSrIndY o.b1
  | 4 => .ldyDirX o.b1
  | 5 => .ldaDirX o.b1
  | 6 => .ldxDirY o.b1
  | 7 => .ldaDirIndLongY o.b1
  | 8 => .clv
  | 9 => .ldaAbsY o.w
  | 10 => .tsx
  | 11 => .tyx
  | 12 => .ldyAbsX o.w
  | 13 => .ldaAbsX o.w
  | 14 => .ldxAbsY o.w
  | _ => .ldaLongX o.l

/-- Row C of the opcode matrix: opcodes C0 to CF by column. -/
def decodeRowC (o : Operands) : Nat → Instr
  | 0 => .cpyImm (o.imm o.f.x)
  | 1 => .cmpDirIndX o.b1
  | 2 => .rep o.b1
  | 3 => .cmpSr o.b1
  | 4 => .cpyDir o.b1
  | 5 => .cmpDir o.b1
  | 6 => .decDir o.b1
  | 7 => .cmpDirIndLong o.b1
  | 8 => .iny
  | 9 => .cmpImm (o.imm o.f.m)
  | 10 => .dex
  | 11 => .wai
  | 12 => .cpyAbs o.w
  | 13 => .cmpAbs o.w
  | 14 => .decAbs o.w
  | _ => .cmpLong o.l

/-- Row D of the opcode matrix: opcodes D0 to DF by column. -/
def decodeRowD (o : Operands) : Nat → Instr
  | 0 => .bne o.b1
  | 1 => .cmpDirIndY o.b1
  | 2 => .cmpDirInd o.b1
  | 3 => .cmpSrIndY o.b1
  | 4 => .pei o.b1
  | 5 => .cmpDirX o.b1
  | 6 => .decDirX o.b1
  | 7 => .cmpDirIndLongY o.b1
  | 8 => .cld
  | 9 => .cmpAbsY o.w
  | 10 => .phx
  | 11 => .stp
  | 12 => .jml o.w
  | 13 => .cmpAbsX o.w
  | 14 => .decAbsX o.w
  | _ => .cmpLongX o.l

/-- Row E of the opcode matrix: opcodes E0 to EF by column. -/
def decodeRowE (o : Operands) : Nat → Instr
  | 0 => .cpxImm (o.imm o.f.x)
  | 1 => .sbcDirIndX o.b1
  | 2 => .sep o.b1
  | 3 => .sbcSr o.b1
  | 4 => .cpxDir o.b1
  | 5 => .sbcDir o.b1
  | 6 => .incDir o.b1
  | 7 => .sbcDirIndLong o.b1
  | 8 => .inx
  | 9 => .sbcImm (o.imm o.f.m)
  | 10 => .nop
  | 11 => .xba
  | 12 => .cpxAbs o.w
  | 13 => .sbcAbs o.w
  | 14 => .incAbs o.w
  | _ => .sbcLong o.l

/-- Row F of the opcode matrix: opcodes F0 to FF by column. -/
def decodeRowF (o : Operands) : Nat → Instr
  | 0 => .beq o.b1
  | 1 => .sbcDirIndY o.b1
  | 2 => .sbcDirInd o.b1
  | 3 => .sbcSrIndY o.b1
  | 4 => .pea o.w
  | 5 => .sbcDirX o.b1
  | 6 => .incDirX o.b1
  | 7 => .sbcDirIndLongY o.b1
  | 8 => .sed
  | 9 => .sbcAbsY o.w
  | 10 => .plx
  | 11 => .xce
  | 12 => .jsrAbsIndX o.w
  | 13 => .sbcAbsX o.w
  | 14 => .incAbsX o.w
  | _ => .sbcLongX o.l

/-- The instruction an opcode byte selects, with its operand bytes (R107). -/
def assemble (op : Byte) (o : Operands) : Instr :=
  let col := (op &&& 0x0F#8).toNat
  match (op >>> 4).toNat with
  | 0 => decodeRow0 o col
  | 1 => decodeRow1 o col
  | 2 => decodeRow2 o col
  | 3 => decodeRow3 o col
  | 4 => decodeRow4 o col
  | 5 => decodeRow5 o col
  | 6 => decodeRow6 o col
  | 7 => decodeRow7 o col
  | 8 => decodeRow8 o col
  | 9 => decodeRow9 o col
  | 10 => decodeRowA o col
  | 11 => decodeRowB o col
  | 12 => decodeRowC o col
  | 13 => decodeRowD o col
  | 14 => decodeRowE o col
  | _ => decodeRowF o col

/-- The length in bytes under the width flags (R100, R102, R103). -/
def Instr.len (f : Widths) : Instr → Nat
  | .oraImm _ | .andImm _ | .eorImm _ | .adcImm _
  | .bitImm _ | .ldaImm _ | .cmpImm _ | .sbcImm _ => if f.m then 2 else 3
  | .ldyImm _ | .ldxImm _ | .cpyImm _ | .cpxImm _ => if f.x then 2 else 3
  | .php | .aslAcc | .phd | .clc
  | .incAcc | .tcs | .plp | .rolAcc
  | .pld | .sec | .decAcc | .tsc
  | .rti | .pha | .lsrAcc | .phk
  | .cli | .phy | .tcd | .rts
  | .pla | .rorAcc | .rtl | .sei
  | .ply | .tdc | .dey | .txa
  | .phb | .tya | .txs | .txy
  | .tay | .tax | .plb | .clv
  | .tsx | .tyx | .iny | .dex
  | .wai | .cld | .phx | .stp
  | .inx | .nop | .xba | .sed
  | .plx | .xce => 1
  | .brk _ | .oraDirIndX _ | .cop _ | .oraSr _
  | .tsbDir _ | .oraDir _ | .aslDir _ | .oraDirIndLong _
  | .bpl _ | .oraDirIndY _ | .oraDirInd _ | .oraSrIndY _
  | .trbDir _ | .oraDirX _ | .aslDirX _ | .oraDirIndLongY _
  | .andDirIndX _ | .andSr _ | .bitDir _ | .andDir _
  | .rolDir _ | .andDirIndLong _ | .bmi _ | .andDirIndY _
  | .andDirInd _ | .andSrIndY _ | .bitDirX _ | .andDirX _
  | .rolDirX _ | .andDirIndLongY _ | .eorDirIndX _ | .wdm _
  | .eorSr _ | .eorDir _ | .lsrDir _ | .eorDirIndLong _
  | .bvc _ | .eorDirIndY _ | .eorDirInd _ | .eorSrIndY _
  | .eorDirX _ | .lsrDirX _ | .eorDirIndLongY _ | .adcDirIndX _
  | .adcSr _ | .stzDir _ | .adcDir _ | .rorDir _
  | .adcDirIndLong _ | .bvs _ | .adcDirIndY _ | .adcDirInd _
  | .adcSrIndY _ | .stzDirX _ | .adcDirX _ | .rorDirX _
  | .adcDirIndLongY _ | .bra _ | .staDirIndX _ | .staSr _
  | .styDir _ | .staDir _ | .stxDir _ | .staDirIndLong _
  | .bcc _ | .staDirIndY _ | .staDirInd _ | .staSrIndY _
  | .styDirX _ | .staDirX _ | .stxDirY _ | .staDirIndLongY _
  | .ldaDirIndX _ | .ldaSr _ | .ldyDir _ | .ldaDir _
  | .ldxDir _ | .ldaDirIndLong _ | .bcs _ | .ldaDirIndY _
  | .ldaDirInd _ | .ldaSrIndY _ | .ldyDirX _ | .ldaDirX _
  | .ldxDirY _ | .ldaDirIndLongY _ | .cmpDirIndX _ | .rep _
  | .cmpSr _ | .cpyDir _ | .cmpDir _ | .decDir _
  | .cmpDirIndLong _ | .bne _ | .cmpDirIndY _ | .cmpDirInd _
  | .cmpSrIndY _ | .pei _ | .cmpDirX _ | .decDirX _
  | .cmpDirIndLongY _ | .sbcDirIndX _ | .sep _ | .sbcSr _
  | .cpxDir _ | .sbcDir _ | .incDir _ | .sbcDirIndLong _
  | .beq _ | .sbcDirIndY _ | .sbcDirInd _ | .sbcSrIndY _
  | .sbcDirX _ | .incDirX _ | .sbcDirIndLongY _ => 2
  | .tsbAbs _ | .oraAbs _ | .aslAbs _ | .oraAbsY _
  | .trbAbs _ | .oraAbsX _ | .aslAbsX _ | .jsrAbs _
  | .bitAbs _ | .andAbs _ | .rolAbs _ | .andAbsY _
  | .bitAbsX _ | .andAbsX _ | .rolAbsX _ | .mvp _ _
  | .jmpAbs _ | .eorAbs _ | .lsrAbs _ | .mvn _ _
  | .eorAbsY _ | .eorAbsX _ | .lsrAbsX _ | .per _
  | .jmpAbsInd _ | .adcAbs _ | .rorAbs _ | .adcAbsY _
  | .jmpAbsIndX _ | .adcAbsX _ | .rorAbsX _ | .brl _
  | .styAbs _ | .staAbs _ | .stxAbs _ | .staAbsY _
  | .stzAbs _ | .staAbsX _ | .stzAbsX _ | .ldyAbs _
  | .ldaAbs _ | .ldxAbs _ | .ldaAbsY _ | .ldyAbsX _
  | .ldaAbsX _ | .ldxAbsY _ | .cpyAbs _ | .cmpAbs _
  | .decAbs _ | .cmpAbsY _ | .jml _ | .cmpAbsX _
  | .decAbsX _ | .cpxAbs _ | .sbcAbs _ | .incAbs _
  | .pea _ | .sbcAbsY _ | .jsrAbsIndX _ | .sbcAbsX _
  | .incAbsX _ => 3
  | .oraLong _ | .oraLongX _ | .jsl _ | .andLong _
  | .andLongX _ | .eorLong _ | .jmpLong _ | .eorLongX _
  | .adcLong _ | .adcLongX _ | .staLong _ | .staLongX _
  | .ldaLong _ | .ldaLongX _ | .cmpLong _ | .cmpLongX _
  | .sbcLong _ | .sbcLongX _ => 4

/-- Decode the first instruction of a byte string under the width flags; the rest of the string is handed back. Total:
bytes that are too few are rejected by name. -/
def decode (f : Widths) : List Byte → Except DecodeError (Instr × List Byte)
  | [] => .error .noOpcode
  | op :: rest =>
    let i := assemble op ⟨f, rest.getD 0 0, rest.getD 1 0, rest.getD 2 0⟩
    if rest.length + 1 < i.len f then .error (.truncated op) else .ok (i, rest.drop (i.len f - 1))

/-- The bytes of an immediate: IDL, and IDH where the flag is 0 (R103). -/
def immBytes (flag : Bool) (imm : Word) : List Byte := if flag then [lo imm] else [lo imm, hi imm]

/-- The two bytes of a 16-bit operand, low first (R74). -/
def wordBytes (w : Word) : List Byte := [lo w, hi w]

/-- The three bytes of a 24-bit operand, low first (R74). -/
def addrBytes (a : Addr) : List Byte := [lo (offOf a), hi (offOf a), bankOf a]

/-- The bytes of an instruction at ascending addresses, from the opcode table of 30_encoding.md section 4. -/
def encode (f : Widths) : Instr → List Byte
  | .brk sig => [0x00#8, sig]
  | .oraDirIndX dOff => [0x01#8, dOff]
  | .cop sig => [0x02#8, sig]
  | .oraSr so => [0x03#8, so]
  | .tsbDir dOff => [0x04#8, dOff]
  | .oraDir dOff => [0x05#8, dOff]
  | .aslDir dOff => [0x06#8, dOff]
  | .oraDirIndLong dOff => [0x07#8, dOff]
  | .php => [0x08#8]
  | .oraImm imm => 0x09#8 :: immBytes f.m imm
  | .aslAcc => [0x0A#8]
  | .phd => [0x0B#8]
  | .tsbAbs aa => 0x0C#8 :: wordBytes aa
  | .oraAbs aa => 0x0D#8 :: wordBytes aa
  | .aslAbs aa => 0x0E#8 :: wordBytes aa
  | .oraLong aal => 0x0F#8 :: addrBytes aal
  | .bpl off => [0x10#8, off]
  | .oraDirIndY dOff => [0x11#8, dOff]
  | .oraDirInd dOff => [0x12#8, dOff]
  | .oraSrIndY so => [0x13#8, so]
  | .trbDir dOff => [0x14#8, dOff]
  | .oraDirX dOff => [0x15#8, dOff]
  | .aslDirX dOff => [0x16#8, dOff]
  | .oraDirIndLongY dOff => [0x17#8, dOff]
  | .clc => [0x18#8]
  | .oraAbsY aa => 0x19#8 :: wordBytes aa
  | .incAcc => [0x1A#8]
  | .tcs => [0x1B#8]
  | .trbAbs aa => 0x1C#8 :: wordBytes aa
  | .oraAbsX aa => 0x1D#8 :: wordBytes aa
  | .aslAbsX aa => 0x1E#8 :: wordBytes aa
  | .oraLongX aal => 0x1F#8 :: addrBytes aal
  | .jsrAbs aa => 0x20#8 :: wordBytes aa
  | .andDirIndX dOff => [0x21#8, dOff]
  | .jsl aal => 0x22#8 :: addrBytes aal
  | .andSr so => [0x23#8, so]
  | .bitDir dOff => [0x24#8, dOff]
  | .andDir dOff => [0x25#8, dOff]
  | .rolDir dOff => [0x26#8, dOff]
  | .andDirIndLong dOff => [0x27#8, dOff]
  | .plp => [0x28#8]
  | .andImm imm => 0x29#8 :: immBytes f.m imm
  | .rolAcc => [0x2A#8]
  | .pld => [0x2B#8]
  | .bitAbs aa => 0x2C#8 :: wordBytes aa
  | .andAbs aa => 0x2D#8 :: wordBytes aa
  | .rolAbs aa => 0x2E#8 :: wordBytes aa
  | .andLong aal => 0x2F#8 :: addrBytes aal
  | .bmi off => [0x30#8, off]
  | .andDirIndY dOff => [0x31#8, dOff]
  | .andDirInd dOff => [0x32#8, dOff]
  | .andSrIndY so => [0x33#8, so]
  | .bitDirX dOff => [0x34#8, dOff]
  | .andDirX dOff => [0x35#8, dOff]
  | .rolDirX dOff => [0x36#8, dOff]
  | .andDirIndLongY dOff => [0x37#8, dOff]
  | .sec => [0x38#8]
  | .andAbsY aa => 0x39#8 :: wordBytes aa
  | .decAcc => [0x3A#8]
  | .tsc => [0x3B#8]
  | .bitAbsX aa => 0x3C#8 :: wordBytes aa
  | .andAbsX aa => 0x3D#8 :: wordBytes aa
  | .rolAbsX aa => 0x3E#8 :: wordBytes aa
  | .andLongX aal => 0x3F#8 :: addrBytes aal
  | .rti => [0x40#8]
  | .eorDirIndX dOff => [0x41#8, dOff]
  | .wdm ignored => [0x42#8, ignored]
  | .eorSr so => [0x43#8, so]
  | .mvp dba sba => [0x44#8, dba, sba]
  | .eorDir dOff => [0x45#8, dOff]
  | .lsrDir dOff => [0x46#8, dOff]
  | .eorDirIndLong dOff => [0x47#8, dOff]
  | .pha => [0x48#8]
  | .eorImm imm => 0x49#8 :: immBytes f.m imm
  | .lsrAcc => [0x4A#8]
  | .phk => [0x4B#8]
  | .jmpAbs aa => 0x4C#8 :: wordBytes aa
  | .eorAbs aa => 0x4D#8 :: wordBytes aa
  | .lsrAbs aa => 0x4E#8 :: wordBytes aa
  | .eorLong aal => 0x4F#8 :: addrBytes aal
  | .bvc off => [0x50#8, off]
  | .eorDirIndY dOff => [0x51#8, dOff]
  | .eorDirInd dOff => [0x52#8, dOff]
  | .eorSrIndY so => [0x53#8, so]
  | .mvn dba sba => [0x54#8, dba, sba]
  | .eorDirX dOff => [0x55#8, dOff]
  | .lsrDirX dOff => [0x56#8, dOff]
  | .eorDirIndLongY dOff => [0x57#8, dOff]
  | .cli => [0x58#8]
  | .eorAbsY aa => 0x59#8 :: wordBytes aa
  | .phy => [0x5A#8]
  | .tcd => [0x5B#8]
  | .jmpLong aal => 0x5C#8 :: addrBytes aal
  | .eorAbsX aa => 0x5D#8 :: wordBytes aa
  | .lsrAbsX aa => 0x5E#8 :: wordBytes aa
  | .eorLongX aal => 0x5F#8 :: addrBytes aal
  | .rts => [0x60#8]
  | .adcDirIndX dOff => [0x61#8, dOff]
  | .per off => 0x62#8 :: wordBytes off
  | .adcSr so => [0x63#8, so]
  | .stzDir dOff => [0x64#8, dOff]
  | .adcDir dOff => [0x65#8, dOff]
  | .rorDir dOff => [0x66#8, dOff]
  | .adcDirIndLong dOff => [0x67#8, dOff]
  | .pla => [0x68#8]
  | .adcImm imm => 0x69#8 :: immBytes f.m imm
  | .rorAcc => [0x6A#8]
  | .rtl => [0x6B#8]
  | .jmpAbsInd aa => 0x6C#8 :: wordBytes aa
  | .adcAbs aa => 0x6D#8 :: wordBytes aa
  | .rorAbs aa => 0x6E#8 :: wordBytes aa
  | .adcLong aal => 0x6F#8 :: addrBytes aal
  | .bvs off => [0x70#8, off]
  | .adcDirIndY dOff => [0x71#8, dOff]
  | .adcDirInd dOff => [0x72#8, dOff]
  | .adcSrIndY so => [0x73#8, so]
  | .stzDirX dOff => [0x74#8, dOff]
  | .adcDirX dOff => [0x75#8, dOff]
  | .rorDirX dOff => [0x76#8, dOff]
  | .adcDirIndLongY dOff => [0x77#8, dOff]
  | .sei => [0x78#8]
  | .adcAbsY aa => 0x79#8 :: wordBytes aa
  | .ply => [0x7A#8]
  | .tdc => [0x7B#8]
  | .jmpAbsIndX aa => 0x7C#8 :: wordBytes aa
  | .adcAbsX aa => 0x7D#8 :: wordBytes aa
  | .rorAbsX aa => 0x7E#8 :: wordBytes aa
  | .adcLongX aal => 0x7F#8 :: addrBytes aal
  | .bra off => [0x80#8, off]
  | .staDirIndX dOff => [0x81#8, dOff]
  | .brl off => 0x82#8 :: wordBytes off
  | .staSr so => [0x83#8, so]
  | .styDir dOff => [0x84#8, dOff]
  | .staDir dOff => [0x85#8, dOff]
  | .stxDir dOff => [0x86#8, dOff]
  | .staDirIndLong dOff => [0x87#8, dOff]
  | .dey => [0x88#8]
  | .bitImm imm => 0x89#8 :: immBytes f.m imm
  | .txa => [0x8A#8]
  | .phb => [0x8B#8]
  | .styAbs aa => 0x8C#8 :: wordBytes aa
  | .staAbs aa => 0x8D#8 :: wordBytes aa
  | .stxAbs aa => 0x8E#8 :: wordBytes aa
  | .staLong aal => 0x8F#8 :: addrBytes aal
  | .bcc off => [0x90#8, off]
  | .staDirIndY dOff => [0x91#8, dOff]
  | .staDirInd dOff => [0x92#8, dOff]
  | .staSrIndY so => [0x93#8, so]
  | .styDirX dOff => [0x94#8, dOff]
  | .staDirX dOff => [0x95#8, dOff]
  | .stxDirY dOff => [0x96#8, dOff]
  | .staDirIndLongY dOff => [0x97#8, dOff]
  | .tya => [0x98#8]
  | .staAbsY aa => 0x99#8 :: wordBytes aa
  | .txs => [0x9A#8]
  | .txy => [0x9B#8]
  | .stzAbs aa => 0x9C#8 :: wordBytes aa
  | .staAbsX aa => 0x9D#8 :: wordBytes aa
  | .stzAbsX aa => 0x9E#8 :: wordBytes aa
  | .staLongX aal => 0x9F#8 :: addrBytes aal
  | .ldyImm imm => 0xA0#8 :: immBytes f.x imm
  | .ldaDirIndX dOff => [0xA1#8, dOff]
  | .ldxImm imm => 0xA2#8 :: immBytes f.x imm
  | .ldaSr so => [0xA3#8, so]
  | .ldyDir dOff => [0xA4#8, dOff]
  | .ldaDir dOff => [0xA5#8, dOff]
  | .ldxDir dOff => [0xA6#8, dOff]
  | .ldaDirIndLong dOff => [0xA7#8, dOff]
  | .tay => [0xA8#8]
  | .ldaImm imm => 0xA9#8 :: immBytes f.m imm
  | .tax => [0xAA#8]
  | .plb => [0xAB#8]
  | .ldyAbs aa => 0xAC#8 :: wordBytes aa
  | .ldaAbs aa => 0xAD#8 :: wordBytes aa
  | .ldxAbs aa => 0xAE#8 :: wordBytes aa
  | .ldaLong aal => 0xAF#8 :: addrBytes aal
  | .bcs off => [0xB0#8, off]
  | .ldaDirIndY dOff => [0xB1#8, dOff]
  | .ldaDirInd dOff => [0xB2#8, dOff]
  | .ldaSrIndY so => [0xB3#8, so]
  | .ldyDirX dOff => [0xB4#8, dOff]
  | .ldaDirX dOff => [0xB5#8, dOff]
  | .ldxDirY dOff => [0xB6#8, dOff]
  | .ldaDirIndLongY dOff => [0xB7#8, dOff]
  | .clv => [0xB8#8]
  | .ldaAbsY aa => 0xB9#8 :: wordBytes aa
  | .tsx => [0xBA#8]
  | .tyx => [0xBB#8]
  | .ldyAbsX aa => 0xBC#8 :: wordBytes aa
  | .ldaAbsX aa => 0xBD#8 :: wordBytes aa
  | .ldxAbsY aa => 0xBE#8 :: wordBytes aa
  | .ldaLongX aal => 0xBF#8 :: addrBytes aal
  | .cpyImm imm => 0xC0#8 :: immBytes f.x imm
  | .cmpDirIndX dOff => [0xC1#8, dOff]
  | .rep mask => [0xC2#8, mask]
  | .cmpSr so => [0xC3#8, so]
  | .cpyDir dOff => [0xC4#8, dOff]
  | .cmpDir dOff => [0xC5#8, dOff]
  | .decDir dOff => [0xC6#8, dOff]
  | .cmpDirIndLong dOff => [0xC7#8, dOff]
  | .iny => [0xC8#8]
  | .cmpImm imm => 0xC9#8 :: immBytes f.m imm
  | .dex => [0xCA#8]
  | .wai => [0xCB#8]
  | .cpyAbs aa => 0xCC#8 :: wordBytes aa
  | .cmpAbs aa => 0xCD#8 :: wordBytes aa
  | .decAbs aa => 0xCE#8 :: wordBytes aa
  | .cmpLong aal => 0xCF#8 :: addrBytes aal
  | .bne off => [0xD0#8, off]
  | .cmpDirIndY dOff => [0xD1#8, dOff]
  | .cmpDirInd dOff => [0xD2#8, dOff]
  | .cmpSrIndY so => [0xD3#8, so]
  | .pei dOff => [0xD4#8, dOff]
  | .cmpDirX dOff => [0xD5#8, dOff]
  | .decDirX dOff => [0xD6#8, dOff]
  | .cmpDirIndLongY dOff => [0xD7#8, dOff]
  | .cld => [0xD8#8]
  | .cmpAbsY aa => 0xD9#8 :: wordBytes aa
  | .phx => [0xDA#8]
  | .stp => [0xDB#8]
  | .jml aa => 0xDC#8 :: wordBytes aa
  | .cmpAbsX aa => 0xDD#8 :: wordBytes aa
  | .decAbsX aa => 0xDE#8 :: wordBytes aa
  | .cmpLongX aal => 0xDF#8 :: addrBytes aal
  | .cpxImm imm => 0xE0#8 :: immBytes f.x imm
  | .sbcDirIndX dOff => [0xE1#8, dOff]
  | .sep mask => [0xE2#8, mask]
  | .sbcSr so => [0xE3#8, so]
  | .cpxDir dOff => [0xE4#8, dOff]
  | .sbcDir dOff => [0xE5#8, dOff]
  | .incDir dOff => [0xE6#8, dOff]
  | .sbcDirIndLong dOff => [0xE7#8, dOff]
  | .inx => [0xE8#8]
  | .sbcImm imm => 0xE9#8 :: immBytes f.m imm
  | .nop => [0xEA#8]
  | .xba => [0xEB#8]
  | .cpxAbs aa => 0xEC#8 :: wordBytes aa
  | .sbcAbs aa => 0xED#8 :: wordBytes aa
  | .incAbs aa => 0xEE#8 :: wordBytes aa
  | .sbcLong aal => 0xEF#8 :: addrBytes aal
  | .beq off => [0xF0#8, off]
  | .sbcDirIndY dOff => [0xF1#8, dOff]
  | .sbcDirInd dOff => [0xF2#8, dOff]
  | .sbcSrIndY so => [0xF3#8, so]
  | .pea aa => 0xF4#8 :: wordBytes aa
  | .sbcDirX dOff => [0xF5#8, dOff]
  | .incDirX dOff => [0xF6#8, dOff]
  | .sbcDirIndLongY dOff => [0xF7#8, dOff]
  | .sed => [0xF8#8]
  | .sbcAbsY aa => 0xF9#8 :: wordBytes aa
  | .plx => [0xFA#8]
  | .xce => [0xFB#8]
  | .jsrAbsIndX aa => 0xFC#8 :: wordBytes aa
  | .sbcAbsX aa => 0xFD#8 :: wordBytes aa
  | .incAbsX aa => 0xFE#8 :: wordBytes aa
  | .sbcLongX aal => 0xFF#8 :: addrBytes aal

/-- Byte `k` of an instruction given as one number, bit 0 the least significant bit of the first byte, every bit at or
above `nbits` zero. -/
def tableByte (nbits w k : Nat) : Byte := BitVec.ofNat 8 (w % 2 ^ nbits / 2 ^ (8 * k))

/-- The four bytes of the longest instruction (R100), read from one number. -/
def tableBytes (nbits w : Nat) : List Byte :=
  [tableByte nbits w 0, tableByte nbits w 1, tableByte nbits w 2, tableByte nbits w 3]

/-- The instruction the decoder reads from a word of the opcode table, with the width flags as reset leaves them, M and X
1 (10_state.md R60). -/
def decodeTableWord (nbits w : Nat) : Option Instr :=
  match decode ⟨true, true⟩ (tableBytes nbits w) with
  | .ok (i, _) => some i
  | .error _ => none

end Sys2Proof
end

