-- ==== Sys2Proof/Machine/Forms.lean ====
section
/-! DEFINITION. The forms of the instructions: mnemonic, operand and kind of memory access of each opcode (30_encoding.md
section 4, R101 to R105). The bus cycles (Bus.lean) and the statements go by these. -/

namespace Sys2Proof

open Machine

/-- The 92 mnemonics (30_encoding.md section 4). -/
inductive Mnemonic where
  | adc | and | asl | bcc | bcs | beq | bit | bmi | bne | bpl | bra | brk | brl | bvc | bvs | clc | cld | cli
  | clv | cmp | cop | cpx | cpy | dec | dex | dey | eor | inc | inx | iny | jml | jmp | jsl | jsr | lda | ldx
  | ldy | lsr | mvn | mvp | nop | ora | pea | pei | per | pha | phb | phd | phk | php | phx | phy | pla | plb
  | pld | plp | plx | ply | rep | rol | ror | rti | rtl | rts | sbc | sec | sed | sei | sep | sta | stp | stx
  | sty | stz | tax | tay | tcd | tcs | tdc | trb | tsb | tsc | tsx | txa | txs | txy | tya | tyx | wai | wdm
  | xba | xce
  deriving DecidableEq, Repr

/-- The mnemonic of an opcode (DS Table 6-4). -/
def Instr.mnemonic : Instr → Mnemonic
  | .adcDirIndX _ | .adcSr _ | .adcDir _ | .adcDirIndLong _ | .adcImm _ | .adcAbs _ | .adcLong _
  | .adcDirIndY _ | .adcDirInd _ | .adcSrIndY _ | .adcDirX _ | .adcDirIndLongY _ | .adcAbsY _ | .adcAbsX _
  | .adcLongX _ => .adc
  | .andDirIndX _ | .andSr _ | .andDir _ | .andDirIndLong _ | .andImm _ | .andAbs _ | .andLong _
  | .andDirIndY _ | .andDirInd _ | .andSrIndY _ | .andDirX _ | .andDirIndLongY _ | .andAbsY _ | .andAbsX _
  | .andLongX _ => .and
  | .aslDir _ | .aslAcc | .aslAbs _ | .aslDirX _ | .aslAbsX _ => .asl
  | .bcc _ => .bcc
  | .bcs _ => .bcs
  | .beq _ => .beq
  | .bitDir _ | .bitAbs _ | .bitDirX _ | .bitAbsX _ | .bitImm _ => .bit
  | .bmi _ => .bmi
  | .bne _ => .bne
  | .bpl _ => .bpl
  | .bra _ => .bra
  | .brk _ => .brk
  | .brl _ => .brl
  | .bvc _ => .bvc
  | .bvs _ => .bvs
  | .clc => .clc
  | .cld => .cld
  | .cli => .cli
  | .clv => .clv
  | .cmpDirIndX _ | .cmpSr _ | .cmpDir _ | .cmpDirIndLong _ | .cmpImm _ | .cmpAbs _ | .cmpLong _
  | .cmpDirIndY _ | .cmpDirInd _ | .cmpSrIndY _ | .cmpDirX _ | .cmpDirIndLongY _ | .cmpAbsY _ | .cmpAbsX _
  | .cmpLongX _ => .cmp
  | .cop _ => .cop
  | .cpxImm _ | .cpxDir _ | .cpxAbs _ => .cpx
  | .cpyImm _ | .cpyDir _ | .cpyAbs _ => .cpy
  | .decAcc | .decDir _ | .decAbs _ | .decDirX _ | .decAbsX _ => .dec
  | .dex => .dex
  | .dey => .dey
  | .eorDirIndX _ | .eorSr _ | .eorDir _ | .eorDirIndLong _ | .eorImm _ | .eorAbs _ | .eorLong _
  | .eorDirIndY _ | .eorDirInd _ | .eorSrIndY _ | .eorDirX _ | .eorDirIndLongY _ | .eorAbsY _ | .eorAbsX _
  | .eorLongX _ => .eor
  | .incAcc | .incDir _ | .incAbs _ | .incDirX _ | .incAbsX _ => .inc
  | .inx => .inx
  | .iny => .iny
  | .jml _ => .jml
  | .jmpAbs _ | .jmpLong _ | .jmpAbsInd _ | .jmpAbsIndX _ => .jmp
  | .jsl _ => .jsl
  | .jsrAbs _ | .jsrAbsIndX _ => .jsr
  | .ldaDirIndX _ | .ldaSr _ | .ldaDir _ | .ldaDirIndLong _ | .ldaImm _ | .ldaAbs _ | .ldaLong _
  | .ldaDirIndY _ | .ldaDirInd _ | .ldaSrIndY _ | .ldaDirX _ | .ldaDirIndLongY _ | .ldaAbsY _ | .ldaAbsX _
  | .ldaLongX _ => .lda
  | .ldxImm _ | .ldxDir _ | .ldxAbs _ | .ldxDirY _ | .ldxAbsY _ => .ldx
  | .ldyImm _ | .ldyDir _ | .ldyAbs _ | .ldyDirX _ | .ldyAbsX _ => .ldy
  | .lsrDir _ | .lsrAcc | .lsrAbs _ | .lsrDirX _ | .lsrAbsX _ => .lsr
  | .mvn _ _ => .mvn
  | .mvp _ _ => .mvp
  | .nop => .nop
  | .oraDirIndX _ | .oraSr _ | .oraDir _ | .oraDirIndLong _ | .oraImm _ | .oraAbs _ | .oraLong _
  | .oraDirIndY _ | .oraDirInd _ | .oraSrIndY _ | .oraDirX _ | .oraDirIndLongY _ | .oraAbsY _ | .oraAbsX _
  | .oraLongX _ => .ora
  | .pea _ => .pea
  | .pei _ => .pei
  | .per _ => .per
  | .pha => .pha
  | .phb => .phb
  | .phd => .phd
  | .phk => .phk
  | .php => .php
  | .phx => .phx
  | .phy => .phy
  | .pla => .pla
  | .plb => .plb
  | .pld => .pld
  | .plp => .plp
  | .plx => .plx
  | .ply => .ply
  | .rep _ => .rep
  | .rolDir _ | .rolAcc | .rolAbs _ | .rolDirX _ | .rolAbsX _ => .rol
  | .rorDir _ | .rorAcc | .rorAbs _ | .rorDirX _ | .rorAbsX _ => .ror
  | .rti => .rti
  | .rtl => .rtl
  | .rts => .rts
  | .sbcDirIndX _ | .sbcSr _ | .sbcDir _ | .sbcDirIndLong _ | .sbcImm _ | .sbcAbs _ | .sbcLong _
  | .sbcDirIndY _ | .sbcDirInd _ | .sbcSrIndY _ | .sbcDirX _ | .sbcDirIndLongY _ | .sbcAbsY _ | .sbcAbsX _
  | .sbcLongX _ => .sbc
  | .sec => .sec
  | .sed => .sed
  | .sei => .sei
  | .sep _ => .sep
  | .staDirIndX _ | .staSr _ | .staDir _ | .staDirIndLong _ | .staAbs _ | .staLong _ | .staDirIndY _
  | .staDirInd _ | .staSrIndY _ | .staDirX _ | .staDirIndLongY _ | .staAbsY _ | .staAbsX _ | .staLongX _ => .sta
  | .stp => .stp
  | .stxDir _ | .stxAbs _ | .stxDirY _ => .stx
  | .styDir _ | .styAbs _ | .styDirX _ => .sty
  | .stzDir _ | .stzDirX _ | .stzAbs _ | .stzAbsX _ => .stz
  | .tax => .tax
  | .tay => .tay
  | .tcd => .tcd
  | .tcs => .tcs
  | .tdc => .tdc
  | .trbDir _ | .trbAbs _ => .trb
  | .tsbDir _ | .tsbAbs _ => .tsb
  | .tsc => .tsc
  | .tsx => .tsx
  | .txa => .txa
  | .txs => .txs
  | .txy => .txy
  | .tya => .tya
  | .tyx => .tyx
  | .wai => .wai
  | .wdm _ => .wdm
  | .xba => .xba
  | .xce => .xce

/-- The operand that a data instruction reads or writes: an immediate or one of the fifteen memory modes
(31_addressing_modes.md). `none` for the instructions without one (REP and SEP, whose mask is no datum of a width, the
one-byte instructions, the stack and control-transfer instructions and the block moves). -/
def Instr.operand? : Instr → Option Operand
  | .oraImm imm | .andImm imm | .eorImm imm | .adcImm imm | .bitImm imm | .ldyImm imm | .ldxImm imm
  | .ldaImm imm | .cpyImm imm | .cmpImm imm | .cpxImm imm | .sbcImm imm => some (.imm imm)
  | .tsbAbs aa | .oraAbs aa | .aslAbs aa | .trbAbs aa | .bitAbs aa | .andAbs aa | .rolAbs aa | .eorAbs aa
  | .lsrAbs aa | .adcAbs aa | .rorAbs aa | .styAbs aa | .staAbs aa | .stxAbs aa | .stzAbs aa | .ldyAbs aa
  | .ldaAbs aa | .ldxAbs aa | .cpyAbs aa | .cmpAbs aa | .decAbs aa | .cpxAbs aa | .sbcAbs aa | .incAbs aa => some (.mem (.abs aa))
  | .oraAbsX aa | .aslAbsX aa | .bitAbsX aa | .andAbsX aa | .rolAbsX aa | .eorAbsX aa | .lsrAbsX aa
  | .adcAbsX aa | .rorAbsX aa | .staAbsX aa | .stzAbsX aa | .ldyAbsX aa | .ldaAbsX aa | .cmpAbsX aa
  | .decAbsX aa | .sbcAbsX aa | .incAbsX aa => some (.mem (.absX aa))
  | .oraAbsY aa | .andAbsY aa | .eorAbsY aa | .adcAbsY aa | .staAbsY aa | .ldaAbsY aa | .ldxAbsY aa
  | .cmpAbsY aa | .sbcAbsY aa => some (.mem (.absY aa))
  | .oraLong aal | .andLong aal | .eorLong aal | .adcLong aal | .staLong aal | .ldaLong aal | .cmpLong aal
  | .sbcLong aal => some (.mem (.long aal))
  | .oraLongX aal | .andLongX aal | .eorLongX aal | .adcLongX aal | .staLongX aal | .ldaLongX aal
  | .cmpLongX aal | .sbcLongX aal => some (.mem (.longX aal))
  | .tsbDir dOff | .oraDir dOff | .aslDir dOff | .trbDir dOff | .bitDir dOff | .andDir dOff | .rolDir dOff
  | .eorDir dOff | .lsrDir dOff | .stzDir dOff | .adcDir dOff | .rorDir dOff | .styDir dOff | .staDir dOff
  | .stxDir dOff | .ldyDir dOff | .ldaDir dOff | .ldxDir dOff | .cpyDir dOff | .cmpDir dOff | .decDir dOff
  | .cpxDir dOff | .sbcDir dOff | .incDir dOff => some (.mem (.dir dOff))
  | .oraDirX dOff | .aslDirX dOff | .bitDirX dOff | .andDirX dOff | .rolDirX dOff | .eorDirX dOff
  | .lsrDirX dOff | .stzDirX dOff | .adcDirX dOff | .rorDirX dOff | .styDirX dOff | .staDirX dOff
  | .ldyDirX dOff | .ldaDirX dOff | .cmpDirX dOff | .decDirX dOff | .sbcDirX dOff | .incDirX dOff => some (.mem (.dirX dOff))
  | .stxDirY dOff | .ldxDirY dOff => some (.mem (.dirY dOff))
  | .oraDirInd dOff | .andDirInd dOff | .eorDirInd dOff | .adcDirInd dOff | .staDirInd dOff | .ldaDirInd dOff
  | .cmpDirInd dOff | .sbcDirInd dOff => some (.mem (.dirInd dOff))
  | .oraDirIndX dOff | .andDirIndX dOff | .eorDirIndX dOff | .adcDirIndX dOff | .staDirIndX dOff
  | .ldaDirIndX dOff | .cmpDirIndX dOff | .sbcDirIndX dOff => some (.mem (.dirIndX dOff))
  | .oraDirIndY dOff | .andDirIndY dOff | .eorDirIndY dOff | .adcDirIndY dOff | .staDirIndY dOff
  | .ldaDirIndY dOff | .cmpDirIndY dOff | .sbcDirIndY dOff => some (.mem (.dirIndY dOff))
  | .oraDirIndLong dOff | .andDirIndLong dOff | .eorDirIndLong dOff | .adcDirIndLong dOff | .staDirIndLong dOff
  | .ldaDirIndLong dOff | .cmpDirIndLong dOff | .sbcDirIndLong dOff => some (.mem (.dirIndLong dOff))
  | .oraDirIndLongY dOff | .andDirIndLongY dOff | .eorDirIndLongY dOff | .adcDirIndLongY dOff
  | .staDirIndLongY dOff | .ldaDirIndLongY dOff | .cmpDirIndLongY dOff | .sbcDirIndLongY dOff => some (.mem (.dirIndLongY dOff))
  | .oraSr so | .andSr so | .eorSr so | .adcSr so | .staSr so | .ldaSr so | .cmpSr so | .sbcSr so => some (.mem (.sr so))
  | .oraSrIndY so | .andSrIndY so | .eorSrIndY so | .adcSrIndY so | .staSrIndY so | .ldaSrIndY so
  | .cmpSrIndY so | .sbcSrIndY so => some (.mem (.srIndY so))
  | .brk _ | .cop _ | .php | .aslAcc | .phd | .bpl _ | .clc | .incAcc | .tcs | .jsrAbs _ | .jsl _ | .plp
  | .rolAcc | .pld | .bmi _ | .sec | .decAcc | .tsc | .rti | .wdm _ | .mvp _ _ | .pha | .lsrAcc | .phk
  | .jmpAbs _ | .bvc _ | .mvn _ _ | .cli | .phy | .tcd | .jmpLong _ | .rts | .per _ | .pla | .rorAcc | .rtl
  | .jmpAbsInd _ | .bvs _ | .sei | .ply | .tdc | .jmpAbsIndX _ | .bra _ | .brl _ | .dey | .txa | .phb | .bcc _
  | .tya | .txs | .txy | .tay | .tax | .plb | .bcs _ | .clv | .tsx | .tyx | .rep _ | .iny | .dex | .wai
  | .bne _ | .pei _ | .cld | .phx | .stp | .jml _ | .sep _ | .inx | .nop | .xba | .beq _ | .pea _ | .sed | .plx
  | .xce | .jsrAbsIndX _ => none

/-- How an instruction accesses its memory operand. -/
inductive Access where
  | read
  | write
  /-- Read-modify-write (42_shift_rmw.md R240). -/
  | modify
  deriving DecidableEq, Repr

/-- The access of each mnemonic that has a data operand (R200, R220, R240). -/
def Mnemonic.access : Mnemonic → Access
  | .sta | .stx | .sty | .stz => .write
  | .asl | .lsr | .rol | .ror | .inc | .dec | .tsb | .trb => .modify
  | .adc | .and | .bcc | .bcs | .beq | .bit | .bmi | .bne | .bpl | .bra | .brk | .brl | .bvc | .bvs | .clc
  | .cld | .cli | .clv | .cmp | .cop | .cpx | .cpy | .dex | .dey | .eor | .inx | .iny | .jml | .jmp | .jsl
  | .jsr | .lda | .ldx | .ldy | .mvn | .mvp | .nop | .ora | .pea | .pei | .per | .pha | .phb | .phd | .phk
  | .php | .phx | .phy | .pla | .plb | .pld | .plp | .plx | .ply | .rep | .rti | .rtl | .rts | .sbc | .sec
  | .sed | .sei | .sep | .stp | .tax | .tay | .tcd | .tcs | .tdc | .tsc | .tsx | .txa | .txs | .txy | .tya
  | .tyx | .wai | .wdm | .xba | .xce => .read

/-- Is the datum's width governed by P.X (20_memory.md R76)? Otherwise it is governed by P.M. -/
def Mnemonic.usesX : Mnemonic → Bool
  | .ldx | .ldy | .stx | .sty | .cpx | .cpy | .phx | .phy | .plx | .ply => true
  | .adc | .and | .asl | .bcc | .bcs | .beq | .bit | .bmi | .bne | .bpl | .bra | .brk | .brl | .bvc | .bvs
  | .clc | .cld | .cli | .clv | .cmp | .cop | .dec | .dex | .dey | .eor | .inc | .inx | .iny | .jml | .jmp
  | .jsl | .jsr | .lda | .lsr | .mvn | .mvp | .nop | .ora | .pea | .pei | .per | .pha | .phb | .phd | .phk
  | .php | .pla | .plb | .pld | .plp | .rep | .rol | .ror | .rti | .rtl | .rts | .sbc | .sec | .sed | .sei
  | .sep | .sta | .stp | .stz | .tax | .tay | .tcd | .tcs | .tdc | .trb | .tsb | .tsc | .tsx | .txa | .txs
  | .txy | .tya | .tyx | .wai | .wdm | .xba | .xce => false

/-- The width of a mnemonic's datum in a state (00_scope.md R7). -/
def Mnemonic.width (m : Mnemonic) (s : State) : Width := if m.usesX then s.wX else s.wA

/-- May the output MX be wrong in the opcode fetch after this instruction: it can change P.M or P.X
(65_pins_and_bus.md R456)? -/
def Mnemonic.changesMX : Mnemonic → Bool
  | .rep | .sep | .plp | .rti | .xce => true
  | .adc | .and | .asl | .bcc | .bcs | .beq | .bit | .bmi | .bne | .bpl | .bra | .brk | .brl | .bvc | .bvs
  | .clc | .cld | .cli | .clv | .cmp | .cop | .cpx | .cpy | .dec | .dex | .dey | .eor | .inc | .inx | .iny
  | .jml | .jmp | .jsl | .jsr | .lda | .ldx | .ldy | .lsr | .mvn | .mvp | .nop | .ora | .pea | .pei | .per
  | .pha | .phb | .phd | .phk | .php | .phx | .phy | .pla | .plb | .pld | .plx | .ply | .rol | .ror | .rtl
  | .rts | .sbc | .sec | .sed | .sei | .sta | .stp | .stx | .sty | .stz | .tax | .tay | .tcd | .tcs | .tdc
  | .trb | .tsb | .tsc | .tsx | .txa | .txs | .txy | .tya | .tyx | .wai | .wdm | .xba => false

end Sys2Proof
end

