-- ==== Sys2Proof/Machine/Boundary.lean ====
section
/-! DEFINITION. The instruction boundary: sampling the inputs (65_pins_and_bus.md R467), recognising reset and interrupts
(60_exceptions.md R420, R421), leaving the wait of WAI (R430), fetching the instruction (00_scope.md R12), and what an
ABORTB pulse and a reset leave (R405; 70_reset_and_hazards.md R500). -/

namespace Sys2Proof.Machine

/-! ### Inputs -/

/-- Take the next sample of the inputs, and the platform's changes of memory with it. Where no sample is left the levels
and the platform's answers stay as they are, ABORTB is not pulsed, RESB does not fall in the step, and the platform
changes nothing (R467; log 8). -/
def State.sample (s : State) : State :=
  match s.input with
  | [] => { s with pins := { s.pins with abort := false, resetAfter := none, changes := [] } }
  | p :: rest => { s with pins := p, input := rest, mem := Memory.change s.mem p.changes }

/-- A high-to-low transition of NMIB sets the latch (10_state.md R45, 60_exceptions.md R404). -/
def State.latchNmi (s : State) : State :=
  { s with nmiPending := s.nmiPending || (s.nmiPrev && !s.pins.nmib), nmiPrev := s.pins.nmib }

/-- An ABORTB pulse sets its latch (10_state.md R47). -/
def State.latchAbort (s : State) : State := { s with abortPending := s.abortPending || s.pins.abort }

/-! ### Recognition -/

/-- What a step does, decided at the boundary that opens it. -/
inductive Action where
  /-- RESB is low: the reset sequence (R406). -/
  | reset
  /-- Stopped by STP: nothing happens (R430). -/
  | stopped
  /-- Still waiting after WAI (R430). -/
  | waiting
  /-- Take an interrupt with this return address (R410). -/
  | take (k : IntKind) (r : Word)
  /-- ABORTB is active during the abort sequence itself: outside the model (93 U6). -/
  | abortDuringAbort
  /-- Fetch and execute an instruction. -/
  | run
  /-- RESB falls in the middle of the step: what the step does is abandoned after `n` of its cycles, and the reset sequence
  follows (70_reset_and_hazards.md R500). -/
  | abandon (n : Nat) (a : Action)
  deriving DecidableEq, Repr

/-- The boundary while the processor waits (R430). ABORTB only sets its latch; NMI or a low IRQB ends the wait; then a latched
abort is taken first, with the address of the WAI opcode. -/
def wakeUp (s : State) : State × Action :=
  let t := s.latchAbort
  if t.nmiPending || !t.pins.irqb then
    let u := { t with waiting := false }
    if u.abortPending then (u, .take .abort (u.pc - 1))
    else if u.nmiPending then (u, .take .nmi u.pc)
    else if u.fI then (u, .run)
    else (u, .take .irq u.pc)
  else (t, .waiting)

/-- The boundary of a running processor: ABORT, then NMI, then IRQ while P.I = 0, else the next instruction (R420, R421). -/
def recognise (s : State) : Action :=
  if s.abortPending then (if s.pins.abort then .abortDuringAbort else .take .abort s.pc)
  else if s.nmiPending then .take .nmi s.pc
  else if !s.pins.irqb && !s.fI then .take .irq s.pc
  else .run

/-- What a sampled state does at the boundary, and what it has latched there. RESB comes first; a stopped processor latches no
edge (48_system.md R335). -/
def decideAction (s : State) : State × Action :=
  if !s.pins.resb then (s, .reset)
  else if s.stopped then (s, .stopped)
  else
    let u := s.latchNmi
    if u.waiting then wakeUp u else (u, recognise u)

/-- What becomes of an action if RESB falls after some of its cycles (R500): it is abandoned. ABORTB active in the abort
sequence stays outside the model (93 U6). -/
def Action.cut (a : Action) : Option Nat → Action
  | none => a
  | some n => if a = .abortDuringAbort then a else .abandon n a

/-- The boundary that opens a step: the state with the inputs sampled, and what is to be done. -/
def boundary (s : State) : State × Action :=
  let d := decideAction s.sample
  (d.1, d.2.cut s.sample.pins.resetAfter)

/-! ### Fetch -/

/-- The width flags that govern immediates (30_encoding.md R103). -/
def State.widths (s : State) : Widths := ⟨s.fM, s.fX⟩

/-- The instruction at PBR:PC (R12, 30_encoding.md R101): the opcode selects it and the operand bytes follow inside the bank.
The model looks at three bytes after the opcode; what the platform answers is fixed for the step, so a look at a byte
that is no operand byte does nothing (log 13). -/
def State.fetch (s : State) : Instr :=
  assemble (s.fetchByte 0) ⟨s.widths, s.fetchByte 1, s.fetchByte 2, s.fetchByte 3⟩

/-! ### After the sequence -/

/-- After an instruction: the MX output is wrong in the next opcode fetch if the instruction can change M or X (R456; log
14). -/
def settleMX (i : Instr) (s : State) : State :=
  if i.mnemonic.changesMX then { s with mxInvalid := true, draws := s.draws + 1 } else { s with mxInvalid := false }

/-- What an ABORTB pulse during a step leaves (R405): every register as before the step, memory as the step's writes left it,
and the abort latch set. `old` is the state at the boundary, `new` the state the step would have left (log 9). -/
def suppress (old new : State) : State :=
  { old with mem := new.mem, draws := new.draws, mxInvalid := new.mxInvalid, abortPending := true }

/-- The end of a step that began in `old`: `new`, unless ABORTB was pulsed. -/
def settle (old new : State) : State := if old.pins.abort then suppress old new else new

/-- An interrupt sequence as a step; the abort sequence itself is not abortable here (93 U6). -/
def takeInterrupt (k : IntKind) (r : Word) (s : State) : State :=
  let t := { interrupt k r s with mxInvalid := false }
  match k with
  | .abort => t
  | .nmi => settle s t
  | .irq => settle s t
  | .brk => settle s t
  | .cop => settle s t

/-! ### Reset -/

/-- P after a reset taken at run time: M = X = I = 1 and D = 0; N, V, Z, C take free values (10_state.md R60; log 5). -/
def resetStatus (draw : Nat) : Byte :=
  setBit (setBit (setBit (setBit 0x34#8 7 (Config.freeN draw)) 6 (Config.freeV draw)) 1 (Config.freeZ draw)) 0
    (Config.freeC draw)

/-- The initialisation of the reset conditioning period, while RESB is low (10_state.md R60, 70_reset_and_hazards.md R500
step 2): what it does not initialise takes free values (log 5). Pins E and MX show 1 of it (Bus.lean). -/
def resetInit (s : State) : State :=
  { s with
    c := word (Config.freeB s.draws) (Config.freeA s.draws)
    x := word 0x00 (Config.freeXL s.draws)
    y := word 0x00 (Config.freeYL s.draws)
    sp := word 0x01 (Config.freeSL s.draws)
    d := 0x0000
    dbr := 0x00
    pbr := 0x00
    p := resetStatus s.draws
    e := true
    nmiPending := false
    nmiPrev := s.pins.nmib
    abortPending := false
    waiting := false
    stopped := false
    mxInvalid := false
    draws := s.draws + 1 }

/-- The reset sequence (R500): the conditioning period, then, when RESB goes high, PC takes the word at 00FFFC,D; nothing is
written. -/
def resetStep (s : State) : State := { resetInit s with pc := s.readVector 0xFFFC }

end Sys2Proof.Machine
end

