-- ==== Sys2Proof/Machine/Placement.lean ====
section
/-! DEFINITION. Placing an instruction where the next step fetches it (30_encoding.md R100, R101; log 4). -/

namespace Sys2Proof.Machine

/-- Store one byte of the instruction stream, `k` bytes after PBR:PC, inside the program bank. -/
def placeByte (k : Nat) (b : Byte) (s : State) : State := s.writeByte (addr s.pbr (s.pc + BitVec.ofNat 16 k)) b

/-- Place the four bytes of an instruction, read from one number, at PBR:PC. -/
def placeWord (nbits w : Nat) (s : State) : State :=
  placeByte 3 (tableByte nbits w 3) (placeByte 2 (tableByte nbits w 2)
    (placeByte 1 (tableByte nbits w 1) (placeByte 0 (tableByte nbits w 0) s)))

/-- Nothing but the fetch is pending: no input is active, and the processor neither waits nor is stopped. -/
def quiet (s : State) : State :=
  { s with
    pins := { Pins.idle with rdyForcedHigh := s.pins.rdyForcedHigh }
    input := []
    nmiPending := false
    nmiPrev := true
    abortPending := false
    waiting := false
    stopped := false }

end Sys2Proof.Machine
end

