-- ==== Sys2Proof/Machine/Flags.lean ====
section
/-! DEFINITION. The results and flags of the arithmetic, compare, bit-test and shift operations, at either width
(41_arithmetic_logic.md R221, R222, R228, R231; 42_shift_rmw.md R241 to R246). Operands are converted to integers, the
result is computed exactly and narrowed at the end (00_scope.md R5). -/

namespace Sys2Proof.Machine

/-- What an addition or subtraction yields: the result and the flags C and V (R221). -/
structure Sum where
  r : Word
  c : Bool
  v : Bool
  deriving DecidableEq, Repr

/-- `AddC(a, m, c, w)` (R221): carry out of the top bit, and signed overflow where both operands have the same sign and
the result the other. -/
def addC (w : Width) (a m : Word) (c : Bool) : Sum :=
  let s := (trunc w a).toNat + (trunc w m).toNat + c.toNat
  let r := BitVec.ofNat 16 (s % 2 ^ w.bits)
  { r := r
    c := decide (2 ^ w.bits ≤ s)
    v := msb w a == msb w m && msb w r != msb w a }

/-- Binary subtraction: `AddC(a, ~m, c, w)`, so that C = 1 means no borrow (R224). -/
def subC (w : Width) (a m : Word) (c : Bool) : Sum := addC w a (~~~m) c

/-! ### Decimal mode (R222) -/

/-- The number of BCD digits of a width. -/
def bcdDigits : Width → Nat
  | .w8 => 2
  | .w16 => 4

/-- `dec`: the decimal number that the low `k` digits of a packed BCD value stand for. -/
def fromBcd : Nat → Nat → Nat
  | 0, _ => 0
  | k + 1, v => v % 16 + 10 * fromBcd k (v / 16)

/-- The packed BCD encoding, in `k` digits, of a number. -/
def toBcd : Nat → Nat → Nat
  | 0, _ => 0
  | k + 1, n => n % 10 + 16 * toBcd k (n / 10)

/-- Is every one of the low `k` nibbles a decimal digit? -/
def allDigits : Nat → Nat → Bool
  | 0, _ => true
  | k + 1, v => decide (v % 16 ≤ 9) && allDigits k (v / 16)

/-- Is a value valid packed BCD at a width? -/
def validBcd (w : Width) (v : Word) : Bool := allDigits (bcdDigits w) (trunc w v).toNat

/-- `dec` at a width. -/
def decOf (w : Width) (v : Word) : Int := (fromBcd (bcdDigits w) (trunc w v).toNat : Nat)

/-- The exact decimal result of ADC (R222). -/
def decSum (w : Width) (a m : Word) (c : Bool) : Int := decOf w a + decOf w m + c.toNat

/-- The exact decimal result of SBC (R222). -/
def decDiff (w : Width) (a m : Word) (c : Bool) : Int := decOf w a - decOf w m - (1 - c.toNat)

/-- The BCD encoding of `n mod 10^(w/4)` (R222). -/
def bcdOf (w : Width) (n : Int) : Word := BitVec.ofNat 16 (toBcd (bcdDigits w) (n % 10 ^ bcdDigits w).toNat)

/-! ### Compare (R228 to R230) -/

/-- `(a - m) mod 2^w`. -/
def cmpResult (w : Width) (a m : Word) : Word := trunc w (trunc w a - trunc w m)

/-- C of a compare: the register is at least the operand, unsigned. -/
def cmpCarry (w : Width) (a m : Word) : Bool := decide ((trunc w m).toNat ≤ (trunc w a).toNat)

/-! ### Shifts and rotates (R241 to R244): the result and the bit shifted out -/

/-- What a shift or rotate yields: the result and the new C. -/
structure Shift where
  r : Word
  c : Bool
  deriving DecidableEq, Repr

/-- ASL (R241). -/
def asl (w : Width) (_c : Bool) (m : Word) : Shift := ⟨trunc w (m <<< 1), msb w m⟩

/-- LSR (R242). -/
def lsr (w : Width) (_c : Bool) (m : Word) : Shift := ⟨trunc w m >>> 1, m.getLsbD 0⟩

/-- ROL (R243): bit 0 is the old C. -/
def rol (w : Width) (c : Bool) (m : Word) : Shift :=
  ⟨trunc w (m <<< 1) ||| (BitVec.ofBool c).setWidth 16, msb w m⟩

/-- ROR (R244): the top bit is the old C. -/
def ror (w : Width) (c : Bool) (m : Word) : Shift :=
  ⟨(trunc w m >>> 1) ||| ((BitVec.ofBool c).setWidth 16 <<< (w.bits - 1)), m.getLsbD 0⟩

/-! ### Increment and decrement (R232 to R237) -/

/-- `(m + 1) mod 2^w`. -/
def incr (w : Width) (m : Word) : Word := trunc w (m + 1)

/-- `(m - 1) mod 2^w`. -/
def decr (w : Width) (m : Word) : Word := trunc w (m - 1)

end Sys2Proof.Machine
end

