-- ==== Sys2Proof/Machine/ShiftRmw.lean ====
section
/-! DEFINITION. Shifts, rotates, increments, decrements and test-and-set/reset bits: on the accumulator, and on memory through
the read-modify-write sequence (42_shift_rmw.md R240 to R246; 41_arithmetic_logic.md R232, R233). The write-back is high
byte first. The modify cycle that shows RWB low in emulation mode is no memory access (R240, 92 D17): Bus.lean. -/

namespace Sys2Proof.Machine

/-- ASL, LSR, ROL, ROR on the accumulator (R133, R241 to R244). -/
def shiftA (f : Width → Bool → Word → Shift) (s : State) : State :=
  let q := f s.wA s.fC s.c
  (((s.setA s.wA q.r).setC q.c).setNZ s.wA q.r).advance 1

/-- ASL, LSR, ROL, ROR on memory (R240 to R244). -/
def shiftMemory (f : Width → Bool → Word → Shift) (mode : MemMode) (s : State) : State :=
  let l := mode.loc s
  let q := f s.wA s.fC (s.loadLoc .locked s.wA l)
  (((s.writeBack s.wA l q.r).setC q.c).setNZ s.wA q.r).advance mode.len

/-- INC and DEC on the accumulator (R232, R233): C and V are not written. -/
def stepA (f : Width → Word → Word) (s : State) : State :=
  let r := f s.wA s.c
  ((s.setA s.wA r).setNZ s.wA r).advance 1

/-- INC and DEC on memory (R232, R233, R240). -/
def stepMemory (f : Width → Word → Word) (mode : MemMode) (s : State) : State :=
  let l := mode.loc s
  let r := f s.wA (s.loadLoc .locked s.wA l)
  ((s.writeBack s.wA l r).setNZ s.wA r).advance mode.len

/-- TSB and TRB (R245, R246): Z of accumulator AND memory as read; `f` of memory and accumulator is written back. -/
def testBits (f : Word → Word → Word) (mode : MemMode) (s : State) : State :=
  let l := mode.loc s
  let m := s.loadLoc .locked s.wA l
  ((s.writeBack s.wA l (f m s.c)).setZ (isZero s.wA (s.c &&& m))).advance mode.len

/-! ### One meaning per opcode -/

/-- ASL `d` (06): R241, mode R142. -/
def execAslDir (dOff : Byte) (s : State) : Result := .next (shiftMemory asl (.dir dOff) s)

/-- ASL `A` (0A): R241, mode R133. -/
def execAslAcc (s : State) : Result := .next (shiftA asl s)

/-- ASL `a` (0E): R241, mode R135. -/
def execAslAbs (aa : Word) (s : State) : Result := .next (shiftMemory asl (.abs aa) s)

/-- ASL `d,x` (16): R241, mode R143. -/
def execAslDirX (dOff : Byte) (s : State) : Result := .next (shiftMemory asl (.dirX dOff) s)

/-- ASL `a,x` (1E): R241, mode R136. -/
def execAslAbsX (aa : Word) (s : State) : Result := .next (shiftMemory asl (.absX aa) s)

/-- LSR `d` (46): R242, mode R142. -/
def execLsrDir (dOff : Byte) (s : State) : Result := .next (shiftMemory lsr (.dir dOff) s)

/-- LSR `A` (4A): R242, mode R133. -/
def execLsrAcc (s : State) : Result := .next (shiftA lsr s)

/-- LSR `a` (4E): R242, mode R135. -/
def execLsrAbs (aa : Word) (s : State) : Result := .next (shiftMemory lsr (.abs aa) s)

/-- LSR `d,x` (56): R242, mode R143. -/
def execLsrDirX (dOff : Byte) (s : State) : Result := .next (shiftMemory lsr (.dirX dOff) s)

/-- LSR `a,x` (5E): R242, mode R136. -/
def execLsrAbsX (aa : Word) (s : State) : Result := .next (shiftMemory lsr (.absX aa) s)

/-- ROL `d` (26): R243, mode R142. -/
def execRolDir (dOff : Byte) (s : State) : Result := .next (shiftMemory rol (.dir dOff) s)

/-- ROL `A` (2A): R243, mode R133. -/
def execRolAcc (s : State) : Result := .next (shiftA rol s)

/-- ROL `a` (2E): R243, mode R135. -/
def execRolAbs (aa : Word) (s : State) : Result := .next (shiftMemory rol (.abs aa) s)

/-- ROL `d,x` (36): R243, mode R143. -/
def execRolDirX (dOff : Byte) (s : State) : Result := .next (shiftMemory rol (.dirX dOff) s)

/-- ROL `a,x` (3E): R243, mode R136. -/
def execRolAbsX (aa : Word) (s : State) : Result := .next (shiftMemory rol (.absX aa) s)

/-- ROR `d` (66): R244, mode R142. -/
def execRorDir (dOff : Byte) (s : State) : Result := .next (shiftMemory ror (.dir dOff) s)

/-- ROR `A` (6A): R244, mode R133. -/
def execRorAcc (s : State) : Result := .next (shiftA ror s)

/-- ROR `a` (6E): R244, mode R135. -/
def execRorAbs (aa : Word) (s : State) : Result := .next (shiftMemory ror (.abs aa) s)

/-- ROR `d,x` (76): R244, mode R143. -/
def execRorDirX (dOff : Byte) (s : State) : Result := .next (shiftMemory ror (.dirX dOff) s)

/-- ROR `a,x` (7E): R244, mode R136. -/
def execRorAbsX (aa : Word) (s : State) : Result := .next (shiftMemory ror (.absX aa) s)

/-- INC `A` (1A): R232, mode R133. -/
def execIncAcc (s : State) : Result := .next (stepA incr s)

/-- INC `d` (E6): R232, mode R142. -/
def execIncDir (dOff : Byte) (s : State) : Result := .next (stepMemory incr (.dir dOff) s)

/-- INC `a` (EE): R232, mode R135. -/
def execIncAbs (aa : Word) (s : State) : Result := .next (stepMemory incr (.abs aa) s)

/-- INC `d,x` (F6): R232, mode R143. -/
def execIncDirX (dOff : Byte) (s : State) : Result := .next (stepMemory incr (.dirX dOff) s)

/-- INC `a,x` (FE): R232, mode R136. -/
def execIncAbsX (aa : Word) (s : State) : Result := .next (stepMemory incr (.absX aa) s)

/-- DEC `A` (3A): R233, mode R133. -/
def execDecAcc (s : State) : Result := .next (stepA decr s)

/-- DEC `d` (C6): R233, mode R142. -/
def execDecDir (dOff : Byte) (s : State) : Result := .next (stepMemory decr (.dir dOff) s)

/-- DEC `a` (CE): R233, mode R135. -/
def execDecAbs (aa : Word) (s : State) : Result := .next (stepMemory decr (.abs aa) s)

/-- DEC `d,x` (D6): R233, mode R143. -/
def execDecDirX (dOff : Byte) (s : State) : Result := .next (stepMemory decr (.dirX dOff) s)

/-- DEC `a,x` (DE): R233, mode R136. -/
def execDecAbsX (aa : Word) (s : State) : Result := .next (stepMemory decr (.absX aa) s)

/-- TSB `d` (04): R245, mode R142. -/
def execTsbDir (dOff : Byte) (s : State) : Result := .next (testBits (fun m a => m ||| a) (.dir dOff) s)

/-- TSB `a` (0C): R245, mode R135. -/
def execTsbAbs (aa : Word) (s : State) : Result := .next (testBits (fun m a => m ||| a) (.abs aa) s)

/-- TRB `d` (14): R246, mode R142. -/
def execTrbDir (dOff : Byte) (s : State) : Result := .next (testBits (fun m a => m &&& ~~~a) (.dir dOff) s)

/-- TRB `a` (1C): R246, mode R135. -/
def execTrbAbs (aa : Word) (s : State) : Result := .next (testBits (fun m a => m &&& ~~~a) (.abs aa) s)

end Sys2Proof.Machine
end

