-- ==== Sys2Proof/Machine/Stack.lean ====
section
/-! DEFINITION. Push, pull and push-effective-address instructions (44_stack.md R270 to R286). -/

namespace Sys2Proof.Machine

/-- A push of a register at a width (R271, R276, R277): one byte, or two with the high byte first. -/
def push (w : Width) (v : Word) (s : State) : State :=
  match w with
  | .w8 => (s.push8 (lo v)).advance 1
  | .w16 => (s.push16 v).advance 1

/-- A one-byte push (R272, R274, R275). -/
def pushByte (v : Byte) (s : State) : State := (s.push8 v).advance 1

/-- The byte PHP pushes (R275): in emulation mode bits 5 and 4 are 1. -/
def phpByte (s : State) : Byte := forcedP s.e s.p

/-- A two-byte push with 16-bit arithmetic on S, for an instruction of `len` bytes (R273, R284 to R286). -/
def pushWord (len : Nat) (v : Word) (s : State) : State := ((s.pushN16 v).fixSh).advance len

/-- A pull at a width (R278, R282, R283): the low byte first. -/
def State.pull (s : State) (w : Width) : Word × State :=
  match w with
  | .w8 => let (b, t) := s.pull8; (zext b, t)
  | .w16 => s.pull16

/-- PLA (R278). -/
def pullA (s : State) : State :=
  let (v, t) := s.pull s.wA
  ((t.setA s.wA v).setNZ s.wA v).advance 1

/-- PLX (R282). -/
def pullX (s : State) : State :=
  let (v, t) := s.pull s.wX
  ((t.setX s.wX v).setNZ s.wX v).advance 1

/-- PLY (R283). -/
def pullY (s : State) : State :=
  let (v, t) := s.pull s.wX
  ((t.setY s.wX v).setNZ s.wX v).advance 1

/-- PLB (R279). -/
def pullDbr (s : State) : State :=
  let (b, t) := s.pull8
  ((t.setDbr b).setNZ .w8 (zext b)).advance 1

/-- PLD (R280). -/
def pullDirect (s : State) : State :=
  let (v, t) := s.pullN16
  (((t.setDirect v).setNZ .w16 v).fixSh).advance 1

/-- PLP (R281). -/
def pullStatus (s : State) : State :=
  let (b, t) := s.pull8
  (t.writeP b).advance 1

/-! ### One meaning per opcode -/

/-- PHA `s` (48): R271, mode R152. -/
def execPha (s : State) : Result := .next (push s.wA s.c s)

/-- PHB `s` (8B): R272, mode R152. -/
def execPhb (s : State) : Result := .next (pushByte s.dbr s)

/-- PHD `s` (0B): R273, mode R152. -/
def execPhd (s : State) : Result := .next (pushWord 1 s.d s)

/-- PHK `s` (4B): R274, mode R152. -/
def execPhk (s : State) : Result := .next (pushByte s.pbr s)

/-- PHP `s` (08): R275, mode R152. -/
def execPhp (s : State) : Result := .next (pushByte (phpByte s) s)

/-- PHX `s` (DA): R276, mode R152. -/
def execPhx (s : State) : Result := .next (push s.wX s.x s)

/-- PHY `s` (5A): R277, mode R152. -/
def execPhy (s : State) : Result := .next (push s.wX s.y s)

/-- PLA `s` (68): R278, mode R152. -/
def execPla (s : State) : Result := .next (pullA s)

/-- PLB `s` (AB): R279, mode R152. -/
def execPlb (s : State) : Result := .next (pullDbr s)

/-- PLD `s` (2B): R280, mode R152. -/
def execPld (s : State) : Result := .next (pullDirect s)

/-- PLP `s` (28): R281, mode R152. -/
def execPlp (s : State) : Result := .next (pullStatus s)

/-- PLX `s` (FA): R282, mode R152. -/
def execPlx (s : State) : Result := .next (pullX s)

/-- PLY `s` (7A): R283, mode R152. -/
def execPly (s : State) : Result := .next (pullY s)

/-- PEA `s` (F4): R284, mode R152. -/
def execPea (aa : Word) (s : State) : Result := .next (pushWord 3 aa s)

/-- PEI `s` (D4): R285, mode R152. -/
def execPei (dOff : Byte) (s : State) : Result := .next (pushWord 2 (s.readPtr16 (dirLongLoc s dOff)) s)

/-- PER `s` (62): R286, mode R152. -/
def execPer (off : Word) (s : State) : Result := .next (pushWord 3 (relLongTarget s off) s)

end Sys2Proof.Machine
end

