-- ==== Sys2Proof/Machine/Bus.lean ====
section
/-! DEFINITION. The output pins and the bus cycles (65_pins_and_bus.md R450 to R467; 71_bus_cycles.md R600 to R656): for every
step the list of its PHI2 cycles with address, data, RWB, VDA, VPA, VPB and MLB. It is a function of the state before the
step; the step itself uses it only where RESB falls in the middle of one, to tell which writes and reads were made (R500). Addresses
of internal cycles are those the tables print (log 15). -/

namespace Sys2Proof.Machine

/-! ### Pins that show state (R50) -/

/-- Pin E shows the emulation bit (R455). -/
def State.pinE (s : State) : Bool := s.e

/-- Pin MX shows P.M while PHI2 is low and P.X while it is high (R456); in the opcode fetch after an instruction that can
change them it has no known level (93 U10, log 14). -/
def State.pinMX (s : State) (phi2High : Bool) : Bool :=
  if s.mxInvalid then Config.freeMX s.draws phi2High else if phi2High then s.fX else s.fM

/-- Pin RDY as an output: low while the processor waits after WAI (R458); STP has no effect on it. -/
def State.pinRDY (s : State) : Bool := !s.waiting

/-! ### One bus cycle (R451 to R462) -/

/-- One PHI2 cycle. `data` is absent where the table says IO. -/
structure BusCycle where
  addr : Addr
  data : Option Byte
  /-- 1 = read. -/
  rwb : Bool
  vda : Bool
  vpa : Bool
  /-- Vector pull, active low (R460). -/
  vpb : Bool
  /-- Memory lock, active low (R457). -/
  mlb : Bool
  deriving DecidableEq, Repr

/-- An opcode fetch: VDA = VPA = 1 (R462). -/
def opcodeCycle (s : State) : BusCycle :=
  { addr := addr s.pbr s.pc, data := some (s.fetchByte 0), rwb := true, vda := true, vpa := true, vpb := true, mlb := true }

/-- A read of the instruction stream or of a pointer in the program bank: VPA = 1 (R462). -/
def programCycle (s : State) (a : Addr) : BusCycle :=
  { addr := a, data := some (s.memRead .program a), rwb := true, vda := false, vpa := true, vpb := true, mlb := true }

/-- The fetch of operand byte `k`. -/
def operandCycle (s : State) (k : Nat) : BusCycle := programCycle s (addr s.pbr (s.pc + BitVec.ofNat 16 k))

/-- An internal cycle: VDA = VPA = 0 (R462, 20_memory.md R79). -/
def internalCycle (a : Addr) : BusCycle :=
  { addr := a, data := none, rwb := true, vda := false, vpa := false, vpb := true, mlb := true }

/-- The internal cycle at `k` bytes after the opcode. -/
def internalAt (s : State) (k : Nat) : BusCycle := internalCycle (addr s.pbr (s.pc + BitVec.ofNat 16 k))

/-- A data read: VDA = 1 (R462). -/
def readCycle (s : State) (a : Addr) : BusCycle :=
  { addr := a, data := some (s.memRead .data a), rwb := true, vda := true, vpa := false, vpb := true, mlb := true }

/-- The data read of a read-modify-write: VDA = 1 and MLB = 0 (R457, R462). -/
def lockedReadCycle (s : State) (a : Addr) : BusCycle :=
  { addr := a, data := some (s.memRead .locked a), rwb := true, vda := true, vpa := false, vpb := true, mlb := false }

/-- A data write: VDA = 1, RWB = 0. -/
def writeCycle (a : Addr) (v : Byte) : BusCycle :=
  { addr := a, data := some v, rwb := false, vda := true, vpa := false, vpb := true, mlb := true }

/-- A vector read: VPB = 0 (R460). -/
def vectorCycle (s : State) (a : Addr) : BusCycle :=
  { addr := a, data := some (s.memRead .vector a), rwb := true, vda := true, vpa := false, vpb := false, mlb := true }

/-- A cycle of a read-modify-write sequence: MLB = 0 (R457). -/
def BusCycle.locked (c : BusCycle) : BusCycle := { c with mlb := false }

/-- Cycle 1 of a hardware interrupt sequence (R645, R462): VDA = VPA = 1 as in an opcode fetch, but the data is ignored. -/
def leadInCycle (a : Addr) : BusCycle := { internalCycle a with vda := true, vpa := true }

/-! ### What a cycle does to memory -/

/-- Is a cycle a memory access (20_memory.md R79)? -/
def BusCycle.valid (c : BusCycle) : Bool := c.vda || c.vpa

/-- The kind of a read cycle, by its pins (R457, R460, R462). -/
def BusCycle.kind (c : BusCycle) : CycleKind :=
  if c.vda && c.vpa then .opcode
  else if c.vpa then .program
  else if !c.vpb then .vector
  else if !c.mlb then .locked
  else .data

/-- Memory after a bus cycle: only a valid write cycle with data changes it (R79, R453). -/
def BusCycle.apply (m : Memory) (c : BusCycle) : Memory :=
  match c.data with
  | some v => if c.valid && !c.rwb then Memory.write m c.addr.toNat v else m
  | none => m

/-- Memory after a list of cycles. -/
abbrev applyCycles (m : Memory) (cs : List BusCycle) : Memory := cs.foldl BusCycle.apply m

/-- The platform's answers after a bus cycle: a valid read uses one (log 1). -/
def BusCycle.use (an : List Answer) (c : BusCycle) : List Answer :=
  if c.valid && c.rwb then useAnswer an c.kind c.addr else an

/-- The platform's answers after a list of cycles. -/
def useCycles (an : List Answer) (cs : List BusCycle) : List Answer := cs.foldl BusCycle.use an

/-! ### Data accesses -/

/-- The reads of a datum: low byte first (R610). -/
def readCycles (s : State) (w : Width) (l : Loc) : List BusCycle :=
  match w with
  | .w8 => [readCycle s l.a0]
  | .w16 => [readCycle s l.a0, readCycle s l.a1]

/-- The writes of a datum: low byte first (R610). -/
def writeCycles (w : Width) (l : Loc) (v : Word) : List BusCycle :=
  match w with
  | .w8 => [writeCycle l.a0 (lo v)]
  | .w16 => [writeCycle l.a0 (lo v), writeCycle l.a1 (hi v)]

/-- The modify cycle (R613, R602 note 17): internal, at the last data address; in emulation mode RWB is low in it and the byte
on the bus is a free value (42_shift_rmw.md R240, log 7). -/
def modifyCycle (s : State) (w : Width) (l : Loc) (r : Word) : BusCycle :=
  let a := match w with
    | .w8 => l.a0
    | .w16 => l.a1
  if s.e then
    { internalCycle a with rwb := false, data := some (Config.rmwE1FirstWrite (s.memRead .locked l.a0) (lo r)) }
  else internalCycle a

/-- The reads of a read-modify-write sequence: low byte first (R613). -/
def lockedReadCycles (s : State) (w : Width) (l : Loc) : List BusCycle :=
  match w with
  | .w8 => [lockedReadCycle s l.a0]
  | .w16 => [lockedReadCycle s l.a0, lockedReadCycle s l.a1]

/-- A read-modify-write sequence (R613, R623, R629, R636): read, modify, write back high byte first, MLB low throughout. -/
def modifyCycles (s : State) (w : Width) (l : Loc) (r : Word) : List BusCycle :=
  let back := match w with
    | .w8 => [writeCycle l.a0 (lo r)]
    | .w16 => [writeCycle l.a1 (hi r), writeCycle l.a0 (lo r)]
  lockedReadCycles s w l ++ (modifyCycle s w l r :: back).map BusCycle.locked

/-- The extra cycle of the direct modes where DL is not 00 (R602 note 2). -/
def dlCycle (s : State) : List BusCycle := if lo s.d == 0 then [] else [internalAt s 1]

/-- The index cycle of `a,x`, `a,y` and `(d),y` (R602 note 4): present when the index crosses a page, or the instruction
writes, or P.X = 0; its address is the partial sum, without the carry out of the low byte. -/
def indexCycle (s : State) (acc : Access) (aa idx : Word) : List BusCycle :=
  if acc != .read || !s.fX || hi (aa + idx) != hi aa then
    [internalCycle (addr s.dbr (word (hi aa) (lo aa + lo idx)))]
  else []

/-- The reads of a 16-bit pointer. -/
def pointerCycles (s : State) (l : Loc) : List BusCycle := [readCycle s l.a0, readCycle s l.a1]

/-- The reads of a 24-bit pointer (R633, R634). -/
def pointerLongCycles (s : State) (l : Loc) : List BusCycle :=
  [readCycle s l.a0, readCycle s l.a1, readCycle s (l.succ.apply l.a1)]

/-- The cycles of a memory mode between the opcode fetch and the data accesses (R610, R618, R621, R622, R624, R628 to R637,
R655, R656). -/
def MemMode.cycles (m : MemMode) (acc : Access) (s : State) : List BusCycle :=
  match m with
  | .abs _ => [operandCycle s 1, operandCycle s 2]
  | .absX aa => [operandCycle s 1, operandCycle s 2] ++ indexCycle s acc aa s.x
  | .absY aa => [operandCycle s 1, operandCycle s 2] ++ indexCycle s acc aa s.y
  | .long _ => [operandCycle s 1, operandCycle s 2, operandCycle s 3]
  | .longX _ => [operandCycle s 1, operandCycle s 2, operandCycle s 3]
  | .dir _ => operandCycle s 1 :: dlCycle s
  | .dirX _ => operandCycle s 1 :: dlCycle s ++ [internalAt s 1]
  | .dirY _ => operandCycle s 1 :: dlCycle s ++ [internalAt s 1]
  | .dirInd d => operandCycle s 1 :: dlCycle s ++ pointerCycles s (dirLoc s d 0)
  | .dirIndX d => operandCycle s 1 :: dlCycle s ++ internalAt s 1 :: pointerCycles s (dirLoc s d s.x)
  | .dirIndY d =>
    operandCycle s 1 :: dlCycle s ++ pointerCycles s (dirLoc s d 0)
      ++ indexCycle s acc (s.readPtr16 (dirLoc s d 0)) s.y
  | .dirIndLong d => operandCycle s 1 :: dlCycle s ++ pointerLongCycles s (dirLongLoc s d)
  | .dirIndLongY d => operandCycle s 1 :: dlCycle s ++ pointerLongCycles s (dirLongLoc s d)
  | .sr _ => [operandCycle s 1, internalAt s 1]
  | .srIndY so =>
    operandCycle s 1 :: internalAt s 1 :: pointerCycles s (srLoc s so) ++ [internalCycle (srLoc s so).a1]

/-- The value a store or a read-modify-write writes, `m` being the datum read. -/
def writtenValue (mn : Mnemonic) (s : State) (m : Word) : Word :=
  match mn with
  | .sta => s.c
  | .stx => s.x
  | .sty => s.y
  | .stz => 0
  | .asl => (asl s.wA s.fC m).r
  | .lsr => (lsr s.wA s.fC m).r
  | .rol => (rol s.wA s.fC m).r
  | .ror => (ror s.wA s.fC m).r
  | .inc => incr s.wA m
  | .dec => decr s.wA m
  | .tsb => m ||| s.c
  | .trb => m &&& ~~~s.c
  | .adc | .and | .bcc | .bcs | .beq | .bit | .bmi | .bne | .bpl | .bra | .brk | .brl | .bvc | .bvs | .clc
  | .cld | .cli | .clv | .cmp | .cop | .cpx | .cpy | .dex | .dey | .eor | .inx | .iny | .jml | .jmp | .jsl
  | .jsr | .lda | .ldx | .ldy | .mvn | .mvp | .nop | .ora | .pea | .pei | .per | .pha | .phb | .phd | .phk
  | .php | .phx | .phy | .pla | .plb | .pld | .plp | .plx | .ply | .rep | .rti | .rtl | .rts | .sbc | .sec
  | .sed | .sei | .sep | .stp | .tax | .tay | .tcd | .tcs | .tdc | .tsc | .tsx | .txa | .txs | .txy | .tya
  | .tyx | .wai | .wdm | .xba | .xce => m

/-- The data accesses of an instruction with a memory operand. -/
def dataCycles (mn : Mnemonic) (s : State) (m : MemMode) : List BusCycle :=
  let w := mn.width s
  let l := m.loc s
  match mn.access with
  | .read => readCycles (m.reached s) w l
  | .write => writeCycles w l (writtenValue mn s 0)
  | .modify => modifyCycles s w l (writtenValue mn s (s.loadLoc .locked w l))

/-- The cycles of an instruction with a data operand (R610 to R638, R655, R656). -/
def operandCycles (mn : Mnemonic) (o : Operand) (s : State) : List BusCycle :=
  match o, mn.width s with
  | .imm _, .w8 => [opcodeCycle s, operandCycle s 1]
  | .imm _, .w16 => [opcodeCycle s, operandCycle s 1, operandCycle s 2]
  | .mem m, _ => opcodeCycle s :: m.cycles mn.access s ++ dataCycles mn s m

/-! ### Stack cycles -/

/-- Pushes: each byte is written at 00:S, then S takes its next value by `next`. -/
def pushCycles (next : Word → Word) : Word → List Byte → List BusCycle
  | _, [] => []
  | sp, b :: rest => writeCycle (addr 0 sp) b :: pushCycles next (next sp) rest

/-- Pulls: S takes its next value by `next`, then the byte at 00:S is read. -/
def pullCycles (s : State) (next : Word → Word) : Word → Nat → List BusCycle
  | _, 0 => []
  | sp, n + 1 => readCycle s (addr 0 (next sp)) :: pullCycles s next (next sp) n

/-- Push8: in emulation mode inside page 1. -/
def State.pushes (s : State) (bs : List Byte) : List BusCycle := pushCycles (fun sp => spStep s.e sp 0xFFFF) s.sp bs

/-- PushN8: 16-bit arithmetic on S. -/
def State.pushesN (s : State) (bs : List Byte) : List BusCycle := pushCycles (fun sp => sp - 1) s.sp bs

/-- Pull8: in emulation mode inside page 1. -/
def State.pulls (s : State) (n : Nat) : List BusCycle := pullCycles s (fun sp => spStep s.e sp 0x0001) s.sp n

/-- PullN8: 16-bit arithmetic on S. -/
def State.pullsN (s : State) (n : Nat) : List BusCycle := pullCycles s (fun sp => sp + 1) s.sp n

/-- The bytes of a datum in push order. -/
def pushBytes (w : Width) (v : Word) : List Byte :=
  match w with
  | .w8 => [lo v]
  | .w16 => [hi v, lo v]

/-- The number of bytes of a width. -/
def widthBytes : Width → Nat
  | .w8 => 1
  | .w16 => 2

/-- A push instruction (R647). -/
def pushTrace (s : State) (writes : List BusCycle) : List BusCycle := opcodeCycle s :: internalAt s 1 :: writes

/-- A pull instruction (R646). -/
def pullTrace (s : State) (reads : List BusCycle) : List BusCycle :=
  opcodeCycle s :: internalAt s 1 :: internalAt s 1 :: reads

/-- The stack and vector cycles of an interrupt sequence (R645, R654): the frame, then the vector with VPB low. -/
def frameCycles (k : IntKind) (r : Word) (s : State) : List BusCycle :=
  let t := pushFrame k r s
  let va := k.vector s.e
  s.pushes ((if s.e then [] else [s.pbr]) ++ [hi r, lo r, stackedP s k])
    ++ [vectorCycle t (addr 0 va), vectorCycle t (addr 0 (va + 1))]

/-- A hardware interrupt sequence (R645): the first cycle shows VDA = VPA = 1 at PBR:PC, and its data is ignored. -/
def interruptCycles (k : IntKind) (r : Word) (s : State) : List BusCycle :=
  leadInCycle (addr s.pbr s.pc) :: internalCycle (addr s.pbr s.pc) :: frameCycles k r s

/-- The reset conditioning period, while RESB is low (10_state.md R60, row "pins"; 70_reset_and_hazards.md R500 step 2): RWB =
1, VDA = VPA = 0, VPB = 1; out of the stop of STP they are the rows 1b and 1a of R641. DESIGN CHOICE (log 15): two cycles,
the fewest R465 allows. -/
def conditioningCycles (s : State) : List BusCycle := [internalAt s 0, internalAt s 0]

/-- The sequence that starts when RESB goes high (R645 with notes 7 and 10, R500 step 3): the two lead-in cycles, three stack
cycles with RWB high, the vector. DESIGN CHOICE (log 15): cycle 1 shows VDA = VPA = 1 as R645 and the row BEGIN of R641
have it, where R500 calls both lead-in cycles internal; and the stack cycles are shown. -/
def resetSequence (s : State) : List BusCycle :=
  let t := resetInit s
  [leadInCycle (addr 0 s.pc), internalCycle (addr 0 s.pc),
    readCycle s (addr 0 t.sp), readCycle s (addr 0 (spStep true t.sp 0xFFFF)),
    readCycle s (addr 0 (spStep true t.sp 0xFFFE)),
    vectorCycle s (addr 0 0xFFFC), vectorCycle s (addr 0 0xFFFD)]

/-- The cycles of a reset: the conditioning period and the sequence. -/
def resetCycles (s : State) : List BusCycle := conditioningCycles s ++ resetSequence s

/-! ### Control transfer and system instructions -/

/-- A branch (R643): cycle 2a if taken, 2b if taken to another page in emulation mode. -/
def branchTrace (cond : Bool) (off : Byte) (s : State) : List BusCycle :=
  let taken := if cond then [internalAt s 1] else []
  let crossed := if cond && s.e && hi (relTarget s off) != hi (s.pc + 2) then [internalAt s 1] else []
  opcodeCycle s :: operandCycle s 1 :: taken ++ crossed

/-- JSR `(a,x)` (R615): AAH is fetched after the pushes. -/
def callIndXTrace (aa : Word) (s : State) : List BusCycle :=
  let t := s.pushN16 (s.pc + 2)
  let p := word (refetch s t 2 (hi aa)) (lo aa) + s.x
  opcodeCycle s :: operandCycle s 1 :: s.pushesN [hi (s.pc + 2), lo (s.pc + 2)]
    ++ [operandCycle t 2, internalAt s 2, programCycle t.afterOperand (addr s.pbr p),
      programCycle t.afterOperand (addr s.pbr (p + 1))]

/-- JSL (R620): AAB is fetched after the push of PBR. -/
def callLongTrace (s : State) : List BusCycle :=
  let t := s.pushN8 s.pbr
  opcodeCycle s :: operandCycle s 1 :: operandCycle s 2 :: s.pushesN [s.pbr]
    ++ internalCycle (addr 0 s.sp) :: operandCycle t 3 :: t.pushesN [hi (s.pc + 3), lo (s.pc + 3)]

/-- One pass of a block move (R626, R627). -/
def blockTrace (dba sba : Byte) (s : State) : List BusCycle :=
  [opcodeCycle s, operandCycle s 1, operandCycle s 2, readCycle s (addr sba s.x),
    writeCycle (addr dba s.y) (s.memRead .data (addr sba s.x)), internalCycle (addr dba s.y), internalCycle (addr dba s.y)]

/-- The cycles of an instruction without a data operand (R611, R612, R614 to R617, R619, R620, R625 to R627, R638 to R654);
those with one are in `operandCycles`. -/
def controlCycles (i : Instr) (s : State) : List BusCycle :=
  match i with
  | .aslAcc | .clc | .incAcc | .tcs | .rolAcc | .sec | .decAcc | .tsc | .lsrAcc | .cli | .tcd | .rorAcc | .sei
  | .tdc | .dey | .txa | .tya | .txs | .txy | .tay | .tax | .clv | .tsx | .tyx | .iny | .dex | .cld | .inx
  | .nop | .sed | .xce => [opcodeCycle s, internalAt s 1]
  | .xba | .stp | .wai => [opcodeCycle s, internalAt s 1, internalAt s 1]
  | .wdm _ => [opcodeCycle s, operandCycle s 1]
  | .rep _ | .sep _ => [opcodeCycle s, operandCycle s 1, internalAt s 1]
  | .mvn dba sba | .mvp dba sba => blockTrace dba sba s
  | .bcc off => branchTrace (!s.fC) off s
  | .bcs off => branchTrace s.fC off s
  | .beq off => branchTrace s.fZ off s
  | .bmi off => branchTrace s.fN off s
  | .bne off => branchTrace (!s.fZ) off s
  | .bpl off => branchTrace (!s.fN) off s
  | .bvc off => branchTrace (!s.fV) off s
  | .bvs off => branchTrace s.fV off s
  | .bra off => branchTrace true off s
  | .brl _ => [opcodeCycle s, operandCycle s 1, operandCycle s 2, internalAt s 2]
  | .jmpAbs _ => [opcodeCycle s, operandCycle s 1, operandCycle s 2]
  | .jmpLong _ => [opcodeCycle s, operandCycle s 1, operandCycle s 2, operandCycle s 3]
  | .jmpAbsInd aa =>
    [opcodeCycle s, operandCycle s 1, operandCycle s 2, readCycle s (addr 0 aa), readCycle s (addr 0 (aa + 1))]
  | .jmpAbsIndX aa =>
    [opcodeCycle s, operandCycle s 1, operandCycle s 2, internalAt s 2,
      programCycle s.afterOperand (addr s.pbr (aa + s.x)), programCycle s.afterOperand (addr s.pbr (aa + s.x + 1))]
  | .jml aa =>
    [opcodeCycle s, operandCycle s 1, operandCycle s 2, readCycle s (addr 0 aa), readCycle s (addr 0 (aa + 1)),
      readCycle s (addr 0 (aa + 2))]
  | .jsrAbs _ =>
    [opcodeCycle s, operandCycle s 1, operandCycle s 2, internalAt s 2] ++ s.pushes [hi (s.pc + 2), lo (s.pc + 2)]
  | .jsrAbsIndX aa => callIndXTrace aa s
  | .jsl _ => callLongTrace s
  | .rts => [opcodeCycle s, internalAt s 1, internalAt s 1] ++ s.pulls 2 ++ [internalCycle (addr 0 s.pull16.2.sp)]
  | .rtl => pullTrace s (s.pullsN 3)
  | .rti => pullTrace s (s.pulls (if s.e then 3 else 4))
  | .brk _ => opcodeCycle s :: operandCycle s 1 :: frameCycles .brk (s.pc + 2) s
  | .cop _ => opcodeCycle s :: operandCycle s 1 :: frameCycles .cop (s.pc + 2) s
  | .pha => pushTrace s (s.pushes (pushBytes s.wA s.c))
  | .phx => pushTrace s (s.pushes (pushBytes s.wX s.x))
  | .phy => pushTrace s (s.pushes (pushBytes s.wX s.y))
  | .phb => pushTrace s (s.pushes [s.dbr])
  | .phk => pushTrace s (s.pushes [s.pbr])
  | .php => pushTrace s (s.pushes [phpByte s])
  | .phd => pushTrace s (s.pushesN [hi s.d, lo s.d])
  | .pla => pullTrace s (s.pulls (widthBytes s.wA))
  | .plx | .ply => pullTrace s (s.pulls (widthBytes s.wX))
  | .plb | .plp => pullTrace s (s.pulls 1)
  | .pld => pullTrace s (s.pullsN 2)
  | .pea aa => [opcodeCycle s, operandCycle s 1, operandCycle s 2] ++ s.pushesN [hi aa, lo aa]
  | .pei d =>
    opcodeCycle s :: operandCycle s 1 :: dlCycle s ++ pointerCycles s (dirLongLoc s d)
      ++ s.pushesN [hi (s.readPtr16 (dirLongLoc s d)), lo (s.readPtr16 (dirLongLoc s d))]
  | .per off =>
    [opcodeCycle s, operandCycle s 1, operandCycle s 2, internalAt s 2]
      ++ s.pushesN [hi (relLongTarget s off), lo (relLongTarget s off)]
  | .oraDirIndX _ | .oraSr _ | .tsbDir _ | .oraDir _ | .aslDir _ | .oraDirIndLong _ | .oraImm _ | .tsbAbs _
  | .oraAbs _ | .aslAbs _ | .oraLong _ | .oraDirIndY _ | .oraDirInd _ | .oraSrIndY _ | .trbDir _ | .oraDirX _
  | .aslDirX _ | .oraDirIndLongY _ | .oraAbsY _ | .trbAbs _ | .oraAbsX _ | .aslAbsX _ | .oraLongX _
  | .andDirIndX _ | .andSr _ | .bitDir _ | .andDir _ | .rolDir _ | .andDirIndLong _ | .andImm _ | .bitAbs _
  | .andAbs _ | .rolAbs _ | .andLong _ | .andDirIndY _ | .andDirInd _ | .andSrIndY _ | .bitDirX _ | .andDirX _
  | .rolDirX _ | .andDirIndLongY _ | .andAbsY _ | .bitAbsX _ | .andAbsX _ | .rolAbsX _ | .andLongX _
  | .eorDirIndX _ | .eorSr _ | .eorDir _ | .lsrDir _ | .eorDirIndLong _ | .eorImm _ | .eorAbs _ | .lsrAbs _
  | .eorLong _ | .eorDirIndY _ | .eorDirInd _ | .eorSrIndY _ | .eorDirX _ | .lsrDirX _ | .eorDirIndLongY _
  | .eorAbsY _ | .eorAbsX _ | .lsrAbsX _ | .eorLongX _ | .adcDirIndX _ | .adcSr _ | .stzDir _ | .adcDir _
  | .rorDir _ | .adcDirIndLong _ | .adcImm _ | .adcAbs _ | .rorAbs _ | .adcLong _ | .adcDirIndY _
  | .adcDirInd _ | .adcSrIndY _ | .stzDirX _ | .adcDirX _ | .rorDirX _ | .adcDirIndLongY _ | .adcAbsY _
  | .adcAbsX _ | .rorAbsX _ | .adcLongX _ | .staDirIndX _ | .staSr _ | .styDir _ | .staDir _ | .stxDir _
  | .staDirIndLong _ | .bitImm _ | .styAbs _ | .staAbs _ | .stxAbs _ | .staLong _ | .staDirIndY _
  | .staDirInd _ | .staSrIndY _ | .styDirX _ | .staDirX _ | .stxDirY _ | .staDirIndLongY _ | .staAbsY _
  | .stzAbs _ | .staAbsX _ | .stzAbsX _ | .staLongX _ | .ldyImm _ | .ldaDirIndX _ | .ldxImm _ | .ldaSr _
  | .ldyDir _ | .ldaDir _ | .ldxDir _ | .ldaDirIndLong _ | .ldaImm _ | .ldyAbs _ | .ldaAbs _ | .ldxAbs _
  | .ldaLong _ | .ldaDirIndY _ | .ldaDirInd _ | .ldaSrIndY _ | .ldyDirX _ | .ldaDirX _ | .ldxDirY _
  | .ldaDirIndLongY _ | .ldaAbsY _ | .ldyAbsX _ | .ldaAbsX _ | .ldxAbsY _ | .ldaLongX _ | .cpyImm _
  | .cmpDirIndX _ | .cmpSr _ | .cpyDir _ | .cmpDir _ | .decDir _ | .cmpDirIndLong _ | .cmpImm _ | .cpyAbs _
  | .cmpAbs _ | .decAbs _ | .cmpLong _ | .cmpDirIndY _ | .cmpDirInd _ | .cmpSrIndY _ | .cmpDirX _ | .decDirX _
  | .cmpDirIndLongY _ | .cmpAbsY _ | .cmpAbsX _ | .decAbsX _ | .cmpLongX _ | .cpxImm _ | .sbcDirIndX _
  | .sbcSr _ | .cpxDir _ | .sbcDir _ | .incDir _ | .sbcDirIndLong _ | .sbcImm _ | .cpxAbs _ | .sbcAbs _
  | .incAbs _ | .sbcLong _ | .sbcDirIndY _ | .sbcDirInd _ | .sbcSrIndY _ | .sbcDirX _ | .incDirX _
  | .sbcDirIndLongY _ | .sbcAbsY _ | .sbcAbsX _ | .incAbsX _ | .sbcLongX _ => []

/-- The cycles of an instruction. -/
def instrCycles (i : Instr) (s : State) : List BusCycle :=
  match i.operand? with
  | some o => operandCycles i.mnemonic o s
  | none => controlCycles i s

/-- What an action abandoned after `n` of its cycles leaves for the reset sequence (R500 step 1): the writes already made stay
made, the platform has answered the reads already made, and every other effect is lost. One more free value is drawn
(log 5). -/
def abandoned (n : Nat) (cs : List BusCycle) (s : State) : State :=
  { s with
    mem := applyCycles s.mem (cs.take n)
    pins := { s.pins with answers := useCycles s.pins.answers (cs.take n) }
    draws := s.draws + 1 }

/-- The cycles of a sampled state's action. A waiting processor shows the last cycle of WAI once per step (R642), a stopped
one the cycle 1c of R641 (log 15). An action cut short shows its first `n` cycles and then the reset sequence. -/
def actionCycles (s : State) (a : Action) : List BusCycle :=
  match a with
  | .reset => resetCycles s
  | .stopped => [internalAt s 0]
  | .waiting => [internalAt s 0]
  | .abortDuringAbort => []
  | .take k r => interruptCycles k r s
  | .run => instrCycles s.fetch s
  | .abandon n b => (actionCycles s b).take n ++ resetCycles (abandoned n (actionCycles s b) s)

/-- A step in whose middle RESB falls (R500): the action is abandoned and the reset sequence runs. The inputs stay those
sampled. -/
def abandonStep (n : Nat) (a : Action) (s : State) : State :=
  { resetStep (abandoned n (actionCycles s a) s) with pins := s.pins }

/-- The bus cycles of the next step: an aborted instruction runs its cycles to the end (60_exceptions.md R405). Where WAI ends,
the processor first waits two cycles (R602 note 9; log 15). -/
def busCycles (s : State) : List BusCycle :=
  let t := (boundary s).1
  let lead := if s.waiting && !t.waiting && t.pins.resb then [internalAt t 0, internalAt t 0] else []
  lead ++ actionCycles t (boundary s).2

/-! ### The number of cycles (R601) -/

/-- One more cycle where a condition holds. -/
def plus (b : Bool) (n : Nat) : Nat := if b then n else 0

/-- The pointer or absolute address that an indexed mode adds its index to, with the index, for the modes with an index
cycle (R601, row 4). -/
def MemMode.indexed? (m : MemMode) (s : State) : Option (Word × Word) :=
  match m with
  | .absX aa => some (aa, s.x)
  | .absY aa => some (aa, s.y)
  | .dirIndY d => some (s.readPtr16 (dirLoc s d 0), s.y)
  | .abs _ | .long _ | .longX _ | .dir _ | .dirX _ | .dirY _ | .dirInd _ | .dirIndX _ | .dirIndLong _
  | .dirIndLongY _ | .sr _ | .srIndY _ => none

/-- Is it a direct mode, which takes a cycle more where DL is not 00 (R601, row 3)? -/
def MemMode.usesD : MemMode → Bool
  | .dir _ | .dirX _ | .dirY _ | .dirInd _ | .dirIndX _ | .dirIndY _ | .dirIndLong _ | .dirIndLongY _ => true
  | .abs _ | .absX _ | .absY _ | .long _ | .longX _ | .sr _ | .srIndY _ => false

/-- The cycles of a memory mode by Table 4-1 (R603): 8-bit read, DL = 00, no page crossing. -/
def MemMode.baseCount : MemMode → Nat
  | .abs _ | .absX _ | .absY _ => 4
  | .long _ | .longX _ => 5
  | .dir _ => 3
  | .dirX _ | .dirY _ => 4
  | .dirInd _ | .dirIndY _ => 5
  | .dirIndX _ | .dirIndLong _ | .dirIndLongY _ => 6
  | .sr _ => 4
  | .srIndY _ => 7

/-- Does the index cycle occur (R601, row 4)? -/
def indexExtra (s : State) (acc : Access) (p : Option (Word × Word)) : Bool :=
  match p with
  | none => false
  | some (aa, idx) => acc != .read || !s.fX || hi (aa + idx) != hi aa

/-- The cycle count of an instruction with a data operand: the base of its mode and the adjustments of R601. -/
def operandCount (mn : Mnemonic) (o : Operand) (s : State) : Nat :=
  let wide := mn.width s == .w16
  match o with
  | .imm _ => 2 + plus wide 1
  | .mem m =>
    m.baseCount + plus (m.usesD && lo s.d != 0) 1 + plus (indexExtra s mn.access (m.indexed? s)) 1
      + (if mn.access == .modify then 2 + plus wide 2 else plus wide 1)

/-- The cycle count of an instruction without a data operand (R601). -/
def controlCount (i : Instr) (s : State) : Nat :=
  match i with
  | .aslAcc | .clc | .incAcc | .tcs | .rolAcc | .sec | .decAcc | .tsc | .lsrAcc | .cli | .tcd | .rorAcc | .sei
  | .tdc | .dey | .txa | .tya | .txs | .txy | .tay | .tax | .clv | .tsx | .tyx | .iny | .dex | .cld | .inx
  | .nop | .sed | .xce => 2
  | .xba | .stp | .wai => 3
  | .wdm _ => 2
  | .rep _ | .sep _ => 3
  | .mvn _ _ | .mvp _ _ => 7
  | .bcc off => 2 + plus (!s.fC) 1 + plus ((!s.fC) && s.e && hi (relTarget s off) != hi (s.pc + 2)) 1
  | .bcs off => 2 + plus s.fC 1 + plus (s.fC && s.e && hi (relTarget s off) != hi (s.pc + 2)) 1
  | .beq off => 2 + plus s.fZ 1 + plus (s.fZ && s.e && hi (relTarget s off) != hi (s.pc + 2)) 1
  | .bmi off => 2 + plus s.fN 1 + plus (s.fN && s.e && hi (relTarget s off) != hi (s.pc + 2)) 1
  | .bne off => 2 + plus (!s.fZ) 1 + plus ((!s.fZ) && s.e && hi (relTarget s off) != hi (s.pc + 2)) 1
  | .bpl off => 2 + plus (!s.fN) 1 + plus ((!s.fN) && s.e && hi (relTarget s off) != hi (s.pc + 2)) 1
  | .bvc off => 2 + plus (!s.fV) 1 + plus ((!s.fV) && s.e && hi (relTarget s off) != hi (s.pc + 2)) 1
  | .bvs off => 2 + plus s.fV 1 + plus (s.fV && s.e && hi (relTarget s off) != hi (s.pc + 2)) 1
  | .bra off => 2 + plus true 1 + plus (true && s.e && hi (relTarget s off) != hi (s.pc + 2)) 1
  | .brl _ => 4
  | .jmpAbs _ => 3
  | .jmpLong _ => 4
  | .jmpAbsInd _ => 5
  | .jmpAbsIndX _ => 6
  | .jml _ => 6
  | .jsrAbs _ => 6
  | .jsrAbsIndX _ => 8
  | .jsl _ => 8
  | .rts | .rtl => 6
  | .rti => 6 + plus (!s.e) 1
  | .brk _ | .cop _ => 7 + plus (!s.e) 1
  | .pha => 3 + plus (!s.fM) 1
  | .phx | .phy => 3 + plus (!s.fX) 1
  | .phb | .phk | .php => 3
  | .phd => 4
  | .pla => 4 + plus (!s.fM) 1
  | .plx | .ply => 4 + plus (!s.fX) 1
  | .plb | .plp => 4
  | .pld => 5
  | .pea _ => 5
  | .pei _ => 6 + plus (lo s.d != 0) 1
  | .per _ => 6
  | .oraDirIndX _ | .oraSr _ | .tsbDir _ | .oraDir _ | .aslDir _ | .oraDirIndLong _ | .oraImm _ | .tsbAbs _
  | .oraAbs _ | .aslAbs _ | .oraLong _ | .oraDirIndY _ | .oraDirInd _ | .oraSrIndY _ | .trbDir _ | .oraDirX _
  | .aslDirX _ | .oraDirIndLongY _ | .oraAbsY _ | .trbAbs _ | .oraAbsX _ | .aslAbsX _ | .oraLongX _
  | .andDirIndX _ | .andSr _ | .bitDir _ | .andDir _ | .rolDir _ | .andDirIndLong _ | .andImm _ | .bitAbs _
  | .andAbs _ | .rolAbs _ | .andLong _ | .andDirIndY _ | .andDirInd _ | .andSrIndY _ | .bitDirX _ | .andDirX _
  | .rolDirX _ | .andDirIndLongY _ | .andAbsY _ | .bitAbsX _ | .andAbsX _ | .rolAbsX _ | .andLongX _
  | .eorDirIndX _ | .eorSr _ | .eorDir _ | .lsrDir _ | .eorDirIndLong _ | .eorImm _ | .eorAbs _ | .lsrAbs _
  | .eorLong _ | .eorDirIndY _ | .eorDirInd _ | .eorSrIndY _ | .eorDirX _ | .lsrDirX _ | .eorDirIndLongY _
  | .eorAbsY _ | .eorAbsX _ | .lsrAbsX _ | .eorLongX _ | .adcDirIndX _ | .adcSr _ | .stzDir _ | .adcDir _
  | .rorDir _ | .adcDirIndLong _ | .adcImm _ | .adcAbs _ | .rorAbs _ | .adcLong _ | .adcDirIndY _
  | .adcDirInd _ | .adcSrIndY _ | .stzDirX _ | .adcDirX _ | .rorDirX _ | .adcDirIndLongY _ | .adcAbsY _
  | .adcAbsX _ | .rorAbsX _ | .adcLongX _ | .staDirIndX _ | .staSr _ | .styDir _ | .staDir _ | .stxDir _
  | .staDirIndLong _ | .bitImm _ | .styAbs _ | .staAbs _ | .stxAbs _ | .staLong _ | .staDirIndY _
  | .staDirInd _ | .staSrIndY _ | .styDirX _ | .staDirX _ | .stxDirY _ | .staDirIndLongY _ | .staAbsY _
  | .stzAbs _ | .staAbsX _ | .stzAbsX _ | .staLongX _ | .ldyImm _ | .ldaDirIndX _ | .ldxImm _ | .ldaSr _
  | .ldyDir _ | .ldaDir _ | .ldxDir _ | .ldaDirIndLong _ | .ldaImm _ | .ldyAbs _ | .ldaAbs _ | .ldxAbs _
  | .ldaLong _ | .ldaDirIndY _ | .ldaDirInd _ | .ldaSrIndY _ | .ldyDirX _ | .ldaDirX _ | .ldxDirY _
  | .ldaDirIndLongY _ | .ldaAbsY _ | .ldyAbsX _ | .ldaAbsX _ | .ldxAbsY _ | .ldaLongX _ | .cpyImm _
  | .cmpDirIndX _ | .cmpSr _ | .cpyDir _ | .cmpDir _ | .decDir _ | .cmpDirIndLong _ | .cmpImm _ | .cpyAbs _
  | .cmpAbs _ | .decAbs _ | .cmpLong _ | .cmpDirIndY _ | .cmpDirInd _ | .cmpSrIndY _ | .cmpDirX _ | .decDirX _
  | .cmpDirIndLongY _ | .cmpAbsY _ | .cmpAbsX _ | .decAbsX _ | .cmpLongX _ | .cpxImm _ | .sbcDirIndX _
  | .sbcSr _ | .cpxDir _ | .sbcDir _ | .incDir _ | .sbcDirIndLong _ | .sbcImm _ | .cpxAbs _ | .sbcAbs _
  | .incAbs _ | .sbcLong _ | .sbcDirIndY _ | .sbcDirInd _ | .sbcSrIndY _ | .sbcDirX _ | .incDirX _
  | .sbcDirIndLongY _ | .sbcAbsY _ | .sbcAbsX _ | .incAbsX _ | .sbcLongX _ => 0

/-- The cycle count of an instruction by R601. -/
def instrCount (i : Instr) (s : State) : Nat :=
  match i.operand? with
  | some o => operandCount i.mnemonic o s
  | none => controlCount i s

end Sys2Proof.Machine
end

