-- ==== Sys2Proof/Machine/ArithLogic.lean ====
section
/-! DEFINITION. Arithmetic, logic, compare, bit test and the index counters (41_arithmetic_logic.md R220 to R231, R234 to
R237). INC and DEC are read-modify-write (ShiftRmw.lean). -/

namespace Sys2Proof.Machine

/-- Binary ADC and SBC (R223, R224): the accumulator and C, V, N, Z take what `addC` or `subC` yields. -/
def putSum (w : Width) (q : Sum) (s : State) : State :=
  (((s.setA w q.r).setC q.c).setV q.v).setNZ w q.r

/-- One more free value is drawn (log 6). -/
def State.draw (s : State) : State := { s with draws := s.draws + 1 }

/-- A decimal result on valid digits (R222): the accumulator, C, N and Z are the decimal ones; V is open (parameter BCD (a),
92 D7, log 6) and takes a free value. -/
def putDecimal (w : Width) (n : Int) (carry : Bool) (s : State) : State :=
  ((((s.setA w (bcdOf w n)).setC carry).setV (Config.bcdV s.draws)).setNZ w (bcdOf w n)).draw

/-- A decimal operation with a nibble above 9 in an operand (R222): the result and all four flags are open (parameter BCD
(b), 92 D7, log 6) and take free values. -/
def putOpenDecimal (w : Width) (s : State) : State :=
  (((((s.setA w (Config.bcdResult s.draws)).setC (Config.bcdC s.draws)).setV (Config.bcdV s.draws)).setN
    (Config.bcdN s.draws)).setZ (Config.bcdZ s.draws)).draw

/-- The accumulator and flags of ADC (R222, R223). -/
def addOperand (w : Width) (m : Word) (s : State) : State :=
  if s.fD then
    if validBcd w s.c && validBcd w m then
      putDecimal w (decSum w s.c m s.fC) (decide (10 ^ bcdDigits w ≤ decSum w s.c m s.fC)) s
    else putOpenDecimal w s
  else putSum w (addC w s.c m s.fC) s

/-- The accumulator and flags of SBC (R222, R224). -/
def subtractOperand (w : Width) (m : Word) (s : State) : State :=
  if s.fD then
    if validBcd w s.c && validBcd w m then
      putDecimal w (decDiff w s.c m s.fC) (decide (0 ≤ decDiff w s.c m s.fC)) s
    else putOpenDecimal w s
  else putSum w (subC w s.c m s.fC) s

/-- ADC (R223). -/
def addWithCarry (o : Operand) (s : State) : State :=
  (addOperand s.wA (o.read s.wA s) s).advance (o.len s.wA)

/-- SBC (R224). -/
def subtractWithBorrow (o : Operand) (s : State) : State :=
  (subtractOperand s.wA (o.read s.wA s) s).advance (o.len s.wA)

/-- AND, ORA, EOR (R225 to R227): the accumulator takes `f` of itself and the operand; N and Z from it. -/
def logic (f : Word → Word → Word) (o : Operand) (s : State) : State :=
  let r := trunc s.wA (f s.c (o.read s.wA s))
  ((s.setA s.wA r).setNZ s.wA r).advance (o.len s.wA)

/-- CMP, CPX, CPY (R228 to R230): C, N, Z of the register minus the operand; no register changes. -/
def compareWith (w : Width) (reg : Word) (o : Operand) (s : State) : State :=
  let m := o.read w s
  ((s.setC (cmpCarry w reg m)).setNZ w (cmpResult w reg m)).advance (o.len w)

/-- BIT on memory (R231): Z of the AND, N and V the top two bits of the operand. -/
def bitTest (mode : MemMode) (s : State) : State :=
  let m := (Operand.mem mode).read s.wA s
  (((s.setZ (isZero s.wA (s.c &&& m))).setN (msb s.wA m)).setV (msb2 s.wA m)).advance mode.len

/-- BIT immediate (R231): Z of the AND; N and V are not affected. -/
def bitTestImmediate (imm : Word) (s : State) : State :=
  (s.setZ (isZero s.wA (s.c &&& imm))).advance ((Operand.imm imm).len s.wA)

/-- INX and DEX (R234, R236). -/
def stepX (f : Width → Word → Word) (s : State) : State :=
  ((s.setX s.wX (f s.wX s.x)).setNZ s.wX (f s.wX s.x)).advance 1

/-- INY and DEY (R235, R237). -/
def stepY (f : Width → Word → Word) (s : State) : State :=
  ((s.setY s.wX (f s.wX s.y)).setNZ s.wX (f s.wX s.y)).advance 1

/-! ### One meaning per opcode -/

/-- ADC `(d,x)` (61): R223, mode R146. -/
def execAdcDirIndX (dOff : Byte) (s : State) : Result := .next (addWithCarry (.mem (.dirIndX dOff)) s)

/-- ADC `d,s` (63): R223, mode R153. -/
def execAdcSr (so : Byte) (s : State) : Result := .next (addWithCarry (.mem (.sr so)) s)

/-- ADC `d` (65): R223, mode R142. -/
def execAdcDir (dOff : Byte) (s : State) : Result := .next (addWithCarry (.mem (.dir dOff)) s)

/-- ADC `[d]` (67): R223, mode R148. -/
def execAdcDirIndLong (dOff : Byte) (s : State) : Result := .next (addWithCarry (.mem (.dirIndLong dOff)) s)

/-- ADC `#` (69): R223, mode R132. -/
def execAdcImm (imm : Word) (s : State) : Result := .next (addWithCarry (.imm imm) s)

/-- ADC `a` (6D): R223, mode R135. -/
def execAdcAbs (aa : Word) (s : State) : Result := .next (addWithCarry (.mem (.abs aa)) s)

/-- ADC `al` (6F): R223, mode R138. -/
def execAdcLong (aal : Addr) (s : State) : Result := .next (addWithCarry (.mem (.long aal)) s)

/-- ADC `(d),y` (71): R223, mode R147. -/
def execAdcDirIndY (dOff : Byte) (s : State) : Result := .next (addWithCarry (.mem (.dirIndY dOff)) s)

/-- ADC `(d)` (72): R223, mode R145. -/
def execAdcDirInd (dOff : Byte) (s : State) : Result := .next (addWithCarry (.mem (.dirInd dOff)) s)

/-- ADC `(d,s),y` (73): R223, mode R154. -/
def execAdcSrIndY (so : Byte) (s : State) : Result := .next (addWithCarry (.mem (.srIndY so)) s)

/-- ADC `d,x` (75): R223, mode R143. -/
def execAdcDirX (dOff : Byte) (s : State) : Result := .next (addWithCarry (.mem (.dirX dOff)) s)

/-- ADC `[d],y` (77): R223, mode R149. -/
def execAdcDirIndLongY (dOff : Byte) (s : State) : Result := .next (addWithCarry (.mem (.dirIndLongY dOff)) s)

/-- ADC `a,y` (79): R223, mode R137. -/
def execAdcAbsY (aa : Word) (s : State) : Result := .next (addWithCarry (.mem (.absY aa)) s)

/-- ADC `a,x` (7D): R223, mode R136. -/
def execAdcAbsX (aa : Word) (s : State) : Result := .next (addWithCarry (.mem (.absX aa)) s)

/-- ADC `al,x` (7F): R223, mode R139. -/
def execAdcLongX (aal : Addr) (s : State) : Result := .next (addWithCarry (.mem (.longX aal)) s)

/-- SBC `(d,x)` (E1): R224, mode R146. -/
def execSbcDirIndX (dOff : Byte) (s : State) : Result := .next (subtractWithBorrow (.mem (.dirIndX dOff)) s)

/-- SBC `d,s` (E3): R224, mode R153. -/
def execSbcSr (so : Byte) (s : State) : Result := .next (subtractWithBorrow (.mem (.sr so)) s)

/-- SBC `d` (E5): R224, mode R142. -/
def execSbcDir (dOff : Byte) (s : State) : Result := .next (subtractWithBorrow (.mem (.dir dOff)) s)

/-- SBC `[d]` (E7): R224, mode R148. -/
def execSbcDirIndLong (dOff : Byte) (s : State) : Result := .next (subtractWithBorrow (.mem (.dirIndLong dOff)) s)

/-- SBC `#` (E9): R224, mode R132. -/
def execSbcImm (imm : Word) (s : State) : Result := .next (subtractWithBorrow (.imm imm) s)

/-- SBC `a` (ED): R224, mode R135. -/
def execSbcAbs (aa : Word) (s : State) : Result := .next (subtractWithBorrow (.mem (.abs aa)) s)

/-- SBC `al` (EF): R224, mode R138. -/
def execSbcLong (aal : Addr) (s : State) : Result := .next (subtractWithBorrow (.mem (.long aal)) s)

/-- SBC `(d),y` (F1): R224, mode R147. -/
def execSbcDirIndY (dOff : Byte) (s : State) : Result := .next (subtractWithBorrow (.mem (.dirIndY dOff)) s)

/-- SBC `(d)` (F2): R224, mode R145. -/
def execSbcDirInd (dOff : Byte) (s : State) : Result := .next (subtractWithBorrow (.mem (.dirInd dOff)) s)

/-- SBC `(d,s),y` (F3): R224, mode R154. -/
def execSbcSrIndY (so : Byte) (s : State) : Result := .next (subtractWithBorrow (.mem (.srIndY so)) s)

/-- SBC `d,x` (F5): R224, mode R143. -/
def execSbcDirX (dOff : Byte) (s : State) : Result := .next (subtractWithBorrow (.mem (.dirX dOff)) s)

/-- SBC `[d],y` (F7): R224, mode R149. -/
def execSbcDirIndLongY (dOff : Byte) (s : State) : Result := .next (subtractWithBorrow (.mem (.dirIndLongY dOff)) s)

/-- SBC `a,y` (F9): R224, mode R137. -/
def execSbcAbsY (aa : Word) (s : State) : Result := .next (subtractWithBorrow (.mem (.absY aa)) s)

/-- SBC `a,x` (FD): R224, mode R136. -/
def execSbcAbsX (aa : Word) (s : State) : Result := .next (subtractWithBorrow (.mem (.absX aa)) s)

/-- SBC `al,x` (FF): R224, mode R139. -/
def execSbcLongX (aal : Addr) (s : State) : Result := .next (subtractWithBorrow (.mem (.longX aal)) s)

/-- AND `(d,x)` (21): R225, mode R146. -/
def execAndDirIndX (dOff : Byte) (s : State) : Result := .next (logic (· &&& ·) (.mem (.dirIndX dOff)) s)

/-- AND `d,s` (23): R225, mode R153. -/
def execAndSr (so : Byte) (s : State) : Result := .next (logic (· &&& ·) (.mem (.sr so)) s)

/-- AND `d` (25): R225, mode R142. -/
def execAndDir (dOff : Byte) (s : State) : Result := .next (logic (· &&& ·) (.mem (.dir dOff)) s)

/-- AND `[d]` (27): R225, mode R148. -/
def execAndDirIndLong (dOff : Byte) (s : State) : Result := .next (logic (· &&& ·) (.mem (.dirIndLong dOff)) s)

/-- AND `#` (29): R225, mode R132. -/
def execAndImm (imm : Word) (s : State) : Result := .next (logic (· &&& ·) (.imm imm) s)

/-- AND `a` (2D): R225, mode R135. -/
def execAndAbs (aa : Word) (s : State) : Result := .next (logic (· &&& ·) (.mem (.abs aa)) s)

/-- AND `al` (2F): R225, mode R138. -/
def execAndLong (aal : Addr) (s : State) : Result := .next (logic (· &&& ·) (.mem (.long aal)) s)

/-- AND `(d),y` (31): R225, mode R147. -/
def execAndDirIndY (dOff : Byte) (s : State) : Result := .next (logic (· &&& ·) (.mem (.dirIndY dOff)) s)

/-- AND `(d)` (32): R225, mode R145. -/
def execAndDirInd (dOff : Byte) (s : State) : Result := .next (logic (· &&& ·) (.mem (.dirInd dOff)) s)

/-- AND `(d,s),y` (33): R225, mode R154. -/
def execAndSrIndY (so : Byte) (s : State) : Result := .next (logic (· &&& ·) (.mem (.srIndY so)) s)

/-- AND `d,x` (35): R225, mode R143. -/
def execAndDirX (dOff : Byte) (s : State) : Result := .next (logic (· &&& ·) (.mem (.dirX dOff)) s)

/-- AND `[d],y` (37): R225, mode R149. -/
def execAndDirIndLongY (dOff : Byte) (s : State) : Result := .next (logic (· &&& ·) (.mem (.dirIndLongY dOff)) s)

/-- AND `a,y` (39): R225, mode R137. -/
def execAndAbsY (aa : Word) (s : State) : Result := .next (logic (· &&& ·) (.mem (.absY aa)) s)

/-- AND `a,x` (3D): R225, mode R136. -/
def execAndAbsX (aa : Word) (s : State) : Result := .next (logic (· &&& ·) (.mem (.absX aa)) s)

/-- AND `al,x` (3F): R225, mode R139. -/
def execAndLongX (aal : Addr) (s : State) : Result := .next (logic (· &&& ·) (.mem (.longX aal)) s)

/-- ORA `(d,x)` (01): R226, mode R146. -/
def execOraDirIndX (dOff : Byte) (s : State) : Result := .next (logic (· ||| ·) (.mem (.dirIndX dOff)) s)

/-- ORA `d,s` (03): R226, mode R153. -/
def execOraSr (so : Byte) (s : State) : Result := .next (logic (· ||| ·) (.mem (.sr so)) s)

/-- ORA `d` (05): R226, mode R142. -/
def execOraDir (dOff : Byte) (s : State) : Result := .next (logic (· ||| ·) (.mem (.dir dOff)) s)

/-- ORA `[d]` (07): R226, mode R148. -/
def execOraDirIndLong (dOff : Byte) (s : State) : Result := .next (logic (· ||| ·) (.mem (.dirIndLong dOff)) s)

/-- ORA `#` (09): R226, mode R132. -/
def execOraImm (imm : Word) (s : State) : Result := .next (logic (· ||| ·) (.imm imm) s)

/-- ORA `a` (0D): R226, mode R135. -/
def execOraAbs (aa : Word) (s : State) : Result := .next (logic (· ||| ·) (.mem (.abs aa)) s)

/-- ORA `al` (0F): R226, mode R138. -/
def execOraLong (aal : Addr) (s : State) : Result := .next (logic (· ||| ·) (.mem (.long aal)) s)

/-- ORA `(d),y` (11): R226, mode R147. -/
def execOraDirIndY (dOff : Byte) (s : State) : Result := .next (logic (· ||| ·) (.mem (.dirIndY dOff)) s)

/-- ORA `(d)` (12): R226, mode R145. -/
def execOraDirInd (dOff : Byte) (s : State) : Result := .next (logic (· ||| ·) (.mem (.dirInd dOff)) s)

/-- ORA `(d,s),y` (13): R226, mode R154. -/
def execOraSrIndY (so : Byte) (s : State) : Result := .next (logic (· ||| ·) (.mem (.srIndY so)) s)

/-- ORA `d,x` (15): R226, mode R143. -/
def execOraDirX (dOff : Byte) (s : State) : Result := .next (logic (· ||| ·) (.mem (.dirX dOff)) s)

/-- ORA `[d],y` (17): R226, mode R149. -/
def execOraDirIndLongY (dOff : Byte) (s : State) : Result := .next (logic (· ||| ·) (.mem (.dirIndLongY dOff)) s)

/-- ORA `a,y` (19): R226, mode R137. -/
def execOraAbsY (aa : Word) (s : State) : Result := .next (logic (· ||| ·) (.mem (.absY aa)) s)

/-- ORA `a,x` (1D): R226, mode R136. -/
def execOraAbsX (aa : Word) (s : State) : Result := .next (logic (· ||| ·) (.mem (.absX aa)) s)

/-- ORA `al,x` (1F): R226, mode R139. -/
def execOraLongX (aal : Addr) (s : State) : Result := .next (logic (· ||| ·) (.mem (.longX aal)) s)

/-- EOR `(d,x)` (41): R227, mode R146. -/
def execEorDirIndX (dOff : Byte) (s : State) : Result := .next (logic (· ^^^ ·) (.mem (.dirIndX dOff)) s)

/-- EOR `d,s` (43): R227, mode R153. -/
def execEorSr (so : Byte) (s : State) : Result := .next (logic (· ^^^ ·) (.mem (.sr so)) s)

/-- EOR `d` (45): R227, mode R142. -/
def execEorDir (dOff : Byte) (s : State) : Result := .next (logic (· ^^^ ·) (.mem (.dir dOff)) s)

/-- EOR `[d]` (47): R227, mode R148. -/
def execEorDirIndLong (dOff : Byte) (s : State) : Result := .next (logic (· ^^^ ·) (.mem (.dirIndLong dOff)) s)

/-- EOR `#` (49): R227, mode R132. -/
def execEorImm (imm : Word) (s : State) : Result := .next (logic (· ^^^ ·) (.imm imm) s)

/-- EOR `a` (4D): R227, mode R135. -/
def execEorAbs (aa : Word) (s : State) : Result := .next (logic (· ^^^ ·) (.mem (.abs aa)) s)

/-- EOR `al` (4F): R227, mode R138. -/
def execEorLong (aal : Addr) (s : State) : Result := .next (logic (· ^^^ ·) (.mem (.long aal)) s)

/-- EOR `(d),y` (51): R227, mode R147. -/
def execEorDirIndY (dOff : Byte) (s : State) : Result := .next (logic (· ^^^ ·) (.mem (.dirIndY dOff)) s)

/-- EOR `(d)` (52): R227, mode R145. -/
def execEorDirInd (dOff : Byte) (s : State) : Result := .next (logic (· ^^^ ·) (.mem (.dirInd dOff)) s)

/-- EOR `(d,s),y` (53): R227, mode R154. -/
def execEorSrIndY (so : Byte) (s : State) : Result := .next (logic (· ^^^ ·) (.mem (.srIndY so)) s)

/-- EOR `d,x` (55): R227, mode R143. -/
def execEorDirX (dOff : Byte) (s : State) : Result := .next (logic (· ^^^ ·) (.mem (.dirX dOff)) s)

/-- EOR `[d],y` (57): R227, mode R149. -/
def execEorDirIndLongY (dOff : Byte) (s : State) : Result := .next (logic (· ^^^ ·) (.mem (.dirIndLongY dOff)) s)

/-- EOR `a,y` (59): R227, mode R137. -/
def execEorAbsY (aa : Word) (s : State) : Result := .next (logic (· ^^^ ·) (.mem (.absY aa)) s)

/-- EOR `a,x` (5D): R227, mode R136. -/
def execEorAbsX (aa : Word) (s : State) : Result := .next (logic (· ^^^ ·) (.mem (.absX aa)) s)

/-- EOR `al,x` (5F): R227, mode R139. -/
def execEorLongX (aal : Addr) (s : State) : Result := .next (logic (· ^^^ ·) (.mem (.longX aal)) s)

/-- CMP `(d,x)` (C1): R228, mode R146. -/
def execCmpDirIndX (dOff : Byte) (s : State) : Result := .next (compareWith s.wA s.c (.mem (.dirIndX dOff)) s)

/-- CMP `d,s` (C3): R228, mode R153. -/
def execCmpSr (so : Byte) (s : State) : Result := .next (compareWith s.wA s.c (.mem (.sr so)) s)

/-- CMP `d` (C5): R228, mode R142. -/
def execCmpDir (dOff : Byte) (s : State) : Result := .next (compareWith s.wA s.c (.mem (.dir dOff)) s)

/-- CMP `[d]` (C7): R228, mode R148. -/
def execCmpDirIndLong (dOff : Byte) (s : State) : Result := .next (compareWith s.wA s.c (.mem (.dirIndLong dOff)) s)

/-- CMP `#` (C9): R228, mode R132. -/
def execCmpImm (imm : Word) (s : State) : Result := .next (compareWith s.wA s.c (.imm imm) s)

/-- CMP `a` (CD): R228, mode R135. -/
def execCmpAbs (aa : Word) (s : State) : Result := .next (compareWith s.wA s.c (.mem (.abs aa)) s)

/-- CMP `al` (CF): R228, mode R138. -/
def execCmpLong (aal : Addr) (s : State) : Result := .next (compareWith s.wA s.c (.mem (.long aal)) s)

/-- CMP `(d),y` (D1): R228, mode R147. -/
def execCmpDirIndY (dOff : Byte) (s : State) : Result := .next (compareWith s.wA s.c (.mem (.dirIndY dOff)) s)

/-- CMP `(d)` (D2): R228, mode R145. -/
def execCmpDirInd (dOff : Byte) (s : State) : Result := .next (compareWith s.wA s.c (.mem (.dirInd dOff)) s)

/-- CMP `(d,s),y` (D3): R228, mode R154. -/
def execCmpSrIndY (so : Byte) (s : State) : Result := .next (compareWith s.wA s.c (.mem (.srIndY so)) s)

/-- CMP `d,x` (D5): R228, mode R143. -/
def execCmpDirX (dOff : Byte) (s : State) : Result := .next (compareWith s.wA s.c (.mem (.dirX dOff)) s)

/-- CMP `[d],y` (D7): R228, mode R149. -/
def execCmpDirIndLongY (dOff : Byte) (s : State) : Result := .next (compareWith s.wA s.c (.mem (.dirIndLongY dOff)) s)

/-- CMP `a,y` (D9): R228, mode R137. -/
def execCmpAbsY (aa : Word) (s : State) : Result := .next (compareWith s.wA s.c (.mem (.absY aa)) s)

/-- CMP `a,x` (DD): R228, mode R136. -/
def execCmpAbsX (aa : Word) (s : State) : Result := .next (compareWith s.wA s.c (.mem (.absX aa)) s)

/-- CMP `al,x` (DF): R228, mode R139. -/
def execCmpLongX (aal : Addr) (s : State) : Result := .next (compareWith s.wA s.c (.mem (.longX aal)) s)

/-- CPX `#` (E0): R229, mode R132. -/
def execCpxImm (imm : Word) (s : State) : Result := .next (compareWith s.wX s.x (.imm imm) s)

/-- CPX `d` (E4): R229, mode R142. -/
def execCpxDir (dOff : Byte) (s : State) : Result := .next (compareWith s.wX s.x (.mem (.dir dOff)) s)

/-- CPX `a` (EC): R229, mode R135. -/
def execCpxAbs (aa : Word) (s : State) : Result := .next (compareWith s.wX s.x (.mem (.abs aa)) s)

/-- CPY `#` (C0): R230, mode R132. -/
def execCpyImm (imm : Word) (s : State) : Result := .next (compareWith s.wX s.y (.imm imm) s)

/-- CPY `d` (C4): R230, mode R142. -/
def execCpyDir (dOff : Byte) (s : State) : Result := .next (compareWith s.wX s.y (.mem (.dir dOff)) s)

/-- CPY `a` (CC): R230, mode R135. -/
def execCpyAbs (aa : Word) (s : State) : Result := .next (compareWith s.wX s.y (.mem (.abs aa)) s)

/-- BIT `d` (24): R231, mode R142. -/
def execBitDir (dOff : Byte) (s : State) : Result := .next (bitTest (.dir dOff) s)

/-- BIT `a` (2C): R231, mode R135. -/
def execBitAbs (aa : Word) (s : State) : Result := .next (bitTest (.abs aa) s)

/-- BIT `d,x` (34): R231, mode R143. -/
def execBitDirX (dOff : Byte) (s : State) : Result := .next (bitTest (.dirX dOff) s)

/-- BIT `a,x` (3C): R231, mode R136. -/
def execBitAbsX (aa : Word) (s : State) : Result := .next (bitTest (.absX aa) s)

/-- BIT `#` (89): R231, mode R132. -/
def execBitImm (imm : Word) (s : State) : Result := .next (bitTestImmediate imm s)

/-- INX `i` (E8): R234, mode R134. -/
def execInx (s : State) : Result := .next (stepX incr s)

/-- INY `i` (C8): R235, mode R134. -/
def execIny (s : State) : Result := .next (stepY incr s)

/-- DEX `i` (CA): R236, mode R134. -/
def execDex (s : State) : Result := .next (stepX decr s)

/-- DEY `i` (88): R237, mode R134. -/
def execDey (s : State) : Result := .next (stepY decr s)

end Sys2Proof.Machine
end

