-- ==== Sys2Proof/Machine/BlockMove.lean ====
section
/-! DEFINITION. Block moves (47_block_move.md R320 to R322): one step moves one byte. -/

namespace Sys2Proof.Machine

/-- One pass of MVN (`d` = 1) or MVP (`d` = -1) (R320): DBR takes the destination bank, one byte moves from SBA:X to DBA:Y, X
and Y step at their width, C counts down in 16 bits, and PC advances after the pass that began with C = 0. -/
def blockMove (d : Word) (dba sba : Byte) (s : State) : State :=
  let t := (s.setDbr dba).writeByte (addr dba s.y) (s.memRead .data (addr sba s.x))
  let u := ((t.setX s.wX (s.x + d)).setY s.wX (s.y + d)).setC16 (s.c - 1)
  if s.c = 0 then u.advance 3 else u

/-! ### One meaning per opcode -/

/-- MVN `xyc` (54): R321, mode R155. -/
def execMvn (dba : Byte) (sba : Byte) (s : State) : Result := .next (blockMove 1 dba sba s)

/-- MVP `xyc` (44): R322, mode R155. -/
def execMvp (dba : Byte) (sba : Byte) (s : State) : Result := .next (blockMove (-1) dba sba s)

end Sys2Proof.Machine
end

