-- ==== Sys2Proof/Machine/LoadStore.lean ====
section
/-! DEFINITION. The loads and stores (40_load_store.md R200 to R207): LDA LDX LDY STA STX STY STZ. One shared operation per
destination or store, then one meaning per opcode. -/

namespace Sys2Proof.Machine

/-- LDA (R201): A, or C, takes the operand; N and Z from it. At width 8 B is kept. -/
def loadA (o : Operand) (s : State) : State :=
  let v := o.read s.wA s
  ((s.setA s.wA v).setNZ s.wA v).advance (o.len s.wA)

/-- LDX (R202): X takes the operand; N and Z from it. At width 8 XH becomes 00. -/
def loadX (o : Operand) (s : State) : State :=
  let v := o.read s.wX s
  ((s.setX s.wX v).setNZ s.wX v).advance (o.len s.wX)

/-- LDY (R203): Y takes the operand; N and Z from it. At width 8 YH becomes 00. -/
def loadY (o : Operand) (s : State) : State :=
  let v := o.read s.wX s
  ((s.setY s.wX v).setNZ s.wX v).advance (o.len s.wX)

/-- STA, STX, STY, STZ (R204 to R207): store a value at a width, low byte first; no flag is written. -/
def store (w : Width) (m : MemMode) (v : Word) (s : State) : State :=
  (s.writeLoc w (m.loc s) v).advance m.len

/-! ### One meaning per opcode -/

/-- LDA `(d,x)` (A1): R201, mode R146. -/
def execLdaDirIndX (dOff : Byte) (s : State) : Result := .next (loadA (.mem (.dirIndX dOff)) s)

/-- LDA `d,s` (A3): R201, mode R153. -/
def execLdaSr (so : Byte) (s : State) : Result := .next (loadA (.mem (.sr so)) s)

/-- LDA `d` (A5): R201, mode R142. -/
def execLdaDir (dOff : Byte) (s : State) : Result := .next (loadA (.mem (.dir dOff)) s)

/-- LDA `[d]` (A7): R201, mode R148. -/
def execLdaDirIndLong (dOff : Byte) (s : State) : Result := .next (loadA (.mem (.dirIndLong dOff)) s)

/-- LDA `#` (A9): R201, mode R132. -/
def execLdaImm (imm : Word) (s : State) : Result := .next (loadA (.imm imm) s)

/-- LDA `a` (AD): R201, mode R135. -/
def execLdaAbs (aa : Word) (s : State) : Result := .next (loadA (.mem (.abs aa)) s)

/-- LDA `al` (AF): R201, mode R138. -/
def execLdaLong (aal : Addr) (s : State) : Result := .next (loadA (.mem (.long aal)) s)

/-- LDA `(d),y` (B1): R201, mode R147. -/
def execLdaDirIndY (dOff : Byte) (s : State) : Result := .next (loadA (.mem (.dirIndY dOff)) s)

/-- LDA `(d)` (B2): R201, mode R145. -/
def execLdaDirInd (dOff : Byte) (s : State) : Result := .next (loadA (.mem (.dirInd dOff)) s)

/-- LDA `(d,s),y` (B3): R201, mode R154. -/
def execLdaSrIndY (so : Byte) (s : State) : Result := .next (loadA (.mem (.srIndY so)) s)

/-- LDA `d,x` (B5): R201, mode R143. -/
def execLdaDirX (dOff : Byte) (s : State) : Result := .next (loadA (.mem (.dirX dOff)) s)

/-- LDA `[d],y` (B7): R201, mode R149. -/
def execLdaDirIndLongY (dOff : Byte) (s : State) : Result := .next (loadA (.mem (.dirIndLongY dOff)) s)

/-- LDA `a,y` (B9): R201, mode R137. -/
def execLdaAbsY (aa : Word) (s : State) : Result := .next (loadA (.mem (.absY aa)) s)

/-- LDA `a,x` (BD): R201, mode R136. -/
def execLdaAbsX (aa : Word) (s : State) : Result := .next (loadA (.mem (.absX aa)) s)

/-- LDA `al,x` (BF): R201, mode R139. -/
def execLdaLongX (aal : Addr) (s : State) : Result := .next (loadA (.mem (.longX aal)) s)

/-- LDX `#` (A2): R202, mode R132. -/
def execLdxImm (imm : Word) (s : State) : Result := .next (loadX (.imm imm) s)

/-- LDX `d` (A6): R202, mode R142. -/
def execLdxDir (dOff : Byte) (s : State) : Result := .next (loadX (.mem (.dir dOff)) s)

/-- LDX `a` (AE): R202, mode R135. -/
def execLdxAbs (aa : Word) (s : State) : Result := .next (loadX (.mem (.abs aa)) s)

/-- LDX `d,y` (B6): R202, mode R144. -/
def execLdxDirY (dOff : Byte) (s : State) : Result := .next (loadX (.mem (.dirY dOff)) s)

/-- LDX `a,y` (BE): R202, mode R137. -/
def execLdxAbsY (aa : Word) (s : State) : Result := .next (loadX (.mem (.absY aa)) s)

/-- LDY `#` (A0): R203, mode R132. -/
def execLdyImm (imm : Word) (s : State) : Result := .next (loadY (.imm imm) s)

/-- LDY `d` (A4): R203, mode R142. -/
def execLdyDir (dOff : Byte) (s : State) : Result := .next (loadY (.mem (.dir dOff)) s)

/-- LDY `a` (AC): R203, mode R135. -/
def execLdyAbs (aa : Word) (s : State) : Result := .next (loadY (.mem (.abs aa)) s)

/-- LDY `d,x` (B4): R203, mode R143. -/
def execLdyDirX (dOff : Byte) (s : State) : Result := .next (loadY (.mem (.dirX dOff)) s)

/-- LDY `a,x` (BC): R203, mode R136. -/
def execLdyAbsX (aa : Word) (s : State) : Result := .next (loadY (.mem (.absX aa)) s)

/-- STA `(d,x)` (81): R204, mode R146. -/
def execStaDirIndX (dOff : Byte) (s : State) : Result := .next (store s.wA (.dirIndX dOff) s.c s)

/-- STA `d,s` (83): R204, mode R153. -/
def execStaSr (so : Byte) (s : State) : Result := .next (store s.wA (.sr so) s.c s)

/-- STA `d` (85): R204, mode R142. -/
def execStaDir (dOff : Byte) (s : State) : Result := .next (store s.wA (.dir dOff) s.c s)

/-- STA `[d]` (87): R204, mode R148. -/
def execStaDirIndLong (dOff : Byte) (s : State) : Result := .next (store s.wA (.dirIndLong dOff) s.c s)

/-- STA `a` (8D): R204, mode R135. -/
def execStaAbs (aa : Word) (s : State) : Result := .next (store s.wA (.abs aa) s.c s)

/-- STA `al` (8F): R204, mode R138. -/
def execStaLong (aal : Addr) (s : State) : Result := .next (store s.wA (.long aal) s.c s)

/-- STA `(d),y` (91): R204, mode R147. -/
def execStaDirIndY (dOff : Byte) (s : State) : Result := .next (store s.wA (.dirIndY dOff) s.c s)

/-- STA `(d)` (92): R204, mode R145. -/
def execStaDirInd (dOff : Byte) (s : State) : Result := .next (store s.wA (.dirInd dOff) s.c s)

/-- STA `(d,s),y` (93): R204, mode R154. -/
def execStaSrIndY (so : Byte) (s : State) : Result := .next (store s.wA (.srIndY so) s.c s)

/-- STA `d,x` (95): R204, mode R143. -/
def execStaDirX (dOff : Byte) (s : State) : Result := .next (store s.wA (.dirX dOff) s.c s)

/-- STA `[d],y` (97): R204, mode R149. -/
def execStaDirIndLongY (dOff : Byte) (s : State) : Result := .next (store s.wA (.dirIndLongY dOff) s.c s)

/-- STA `a,y` (99): R204, mode R137. -/
def execStaAbsY (aa : Word) (s : State) : Result := .next (store s.wA (.absY aa) s.c s)

/-- STA `a,x` (9D): R204, mode R136. -/
def execStaAbsX (aa : Word) (s : State) : Result := .next (store s.wA (.absX aa) s.c s)

/-- STA `al,x` (9F): R204, mode R139. -/
def execStaLongX (aal : Addr) (s : State) : Result := .next (store s.wA (.longX aal) s.c s)

/-- STX `d` (86): R205, mode R142. -/
def execStxDir (dOff : Byte) (s : State) : Result := .next (store s.wX (.dir dOff) s.x s)

/-- STX `a` (8E): R205, mode R135. -/
def execStxAbs (aa : Word) (s : State) : Result := .next (store s.wX (.abs aa) s.x s)

/-- STX `d,y` (96): R205, mode R144. -/
def execStxDirY (dOff : Byte) (s : State) : Result := .next (store s.wX (.dirY dOff) s.x s)

/-- STY `d` (84): R206, mode R142. -/
def execStyDir (dOff : Byte) (s : State) : Result := .next (store s.wX (.dir dOff) s.y s)

/-- STY `a` (8C): R206, mode R135. -/
def execStyAbs (aa : Word) (s : State) : Result := .next (store s.wX (.abs aa) s.y s)

/-- STY `d,x` (94): R206, mode R143. -/
def execStyDirX (dOff : Byte) (s : State) : Result := .next (store s.wX (.dirX dOff) s.y s)

/-- STZ `d` (64): R207, mode R142. -/
def execStzDir (dOff : Byte) (s : State) : Result := .next (store s.wA (.dir dOff) 0 s)

/-- STZ `d,x` (74): R207, mode R143. -/
def execStzDirX (dOff : Byte) (s : State) : Result := .next (store s.wA (.dirX dOff) 0 s)

/-- STZ `a` (9C): R207, mode R135. -/
def execStzAbs (aa : Word) (s : State) : Result := .next (store s.wA (.abs aa) 0 s)

/-- STZ `a,x` (9E): R207, mode R136. -/
def execStzAbsX (aa : Word) (s : State) : Result := .next (store s.wA (.absX aa) 0 s)

end Sys2Proof.Machine
end

