-- ==== Sys2Proof/Machine/Status.lean ====
section
/-! DEFINITION. The status register instructions (45_status.md R290 to R299). -/

namespace Sys2Proof.Machine

/-! ### One meaning per opcode -/

/-- CLC `i` (18): R291, mode R134. -/
def execClc (s : State) : Result := .next ((s.setC false).advance 1)

/-- CLD `i` (D8): R292, mode R134. -/
def execCld (s : State) : Result := .next ((s.setD false).advance 1)

/-- CLI `i` (58): R293, mode R134. -/
def execCli (s : State) : Result := .next ((s.setI false).advance 1)

/-- CLV `i` (B8): R294, mode R134. -/
def execClv (s : State) : Result := .next ((s.setV false).advance 1)

/-- SEC `i` (38): R295, mode R134. -/
def execSec (s : State) : Result := .next ((s.setC true).advance 1)

/-- SED `i` (F8): R296, mode R134. -/
def execSed (s : State) : Result := .next ((s.setD true).advance 1)

/-- SEI `i` (78): R297, mode R134. -/
def execSei (s : State) : Result := .next ((s.setI true).advance 1)

/-- REP `#` (C2): R298, mode R132. -/
def execRep (mask : Byte) (s : State) : Result := .next ((s.writeP (s.p &&& ~~~mask)).advance 2)

/-- SEP `#` (E2): R299, mode R132. -/
def execSep (mask : Byte) (s : State) : Result := .next ((s.writeP (s.p ||| mask)).advance 2)

end Sys2Proof.Machine
end

