-- ==== Sys2Proof/Machine/System.lean ====
section
/-! DEFINITION. BRK, COP, RTI, NOP, WDM, WAI and STP (48_system.md R330 to R336). Taking an interrupt and returning from one
are shared operations of Ops.lean. -/

namespace Sys2Proof.Machine

/-- WAI (R334): the processor waits, unless RDY is forced high (65_pins_and_bus.md R458). The wait ends as boundary of
Boundary.lean says. -/
def waitForInterrupt (s : State) : State := { s.advance 1 with waiting := !s.pins.rdyForcedHigh }

/-- STP (R335): the clock stops; only RESB restarts the processor. -/
def stopClock (s : State) : State := { s.advance 1 with stopped := true }

/-! ### One meaning per opcode -/

/-- BRK `s` (00): R330, mode R152. -/
def execBrk (_sig : Byte) (s : State) : Result := .next (interrupt .brk (s.pc + 2) s)

/-- COP `s` (02): R331, mode R152. -/
def execCop (_sig : Byte) (s : State) : Result := .next (interrupt .cop (s.pc + 2) s)

/-- RTI `s` (40): R332, mode R152. -/
def execRti (s : State) : Result := .next (returnFromInterrupt s)

/-- NOP `i` (EA): R333, mode R134. -/
def execNop (s : State) : Result := .next (s.advance 1)

/-- WDM `i` (42): R336, mode R134. -/
def execWdm (_ignored : Byte) (s : State) : Result := .next (s.advance 2)

/-- WAI `i` (CB): R334, mode R134. -/
def execWai (s : State) : Result := .next (waitForInterrupt s)

/-- STP `i` (DB): R335, mode R134. -/
def execStp (s : State) : Result := .next (stopClock s)

end Sys2Proof.Machine
end

