-- ==== Sys2Proof/Machine/Transfer.lean ====
section
/-! DEFINITION. Register transfers, XCE and XBA (43_transfer.md R250 to R264). The source is read in full, the destination's
width decides what is stored and where N and Z come from (R250). -/

namespace Sys2Proof.Machine

/-- A transfer to X (R250, R251, R255, R258). -/
def toX (v : Word) (s : State) : State := ((s.setX s.wX v).setNZ s.wX v).advance 1

/-- A transfer to Y (R250, R252, R257). -/
def toY (v : Word) (s : State) : State := ((s.setY s.wX v).setNZ s.wX v).advance 1

/-- A transfer to A, or to C where P.M = 0 (R250, R253, R254). -/
def toA (v : Word) (s : State) : State := ((s.setA s.wA v).setNZ s.wA v).advance 1

/-- A transfer to S: no flag, and SH stays 01 in emulation mode (R256, R261). -/
def toS (v : Word) (s : State) : State := (s.setSpMode v).advance 1

/-- A transfer to C, always 16 bits (R260, R262). -/
def toC (v : Word) (s : State) : State := ((s.setC16 v).setNZ .w16 v).advance 1

/-- A transfer to D, always 16 bits (R259). -/
def toD (v : Word) (s : State) : State := ((s.setDirect v).setNZ .w16 v).advance 1

/-- Write E (R263): where the new E is 1, P.M = P.X = 1, SH = 01 and XH = YH = 00. -/
def State.setE (s : State) (v : Bool) : State :=
  { s with
    e := v
    p := forcedP v s.p
    sp := forcedSp v s.sp
    x := narrowIndex v s.x
    y := narrowIndex v s.y }

/-- XCE (R263): exchange P.C and E. -/
def exchangeCarryEmulation (s : State) : State := ((s.setC s.e).setE s.fC).advance 1

/-- XBA (R264): exchange A and B; N and Z from the new A, 8 bits. -/
def exchangeBA (s : State) : State :=
  let v := word (lo s.c) (hi s.c)
  ((s.setC16 v).setNZ .w8 v).advance 1

/-! ### One meaning per opcode -/

/-- TAX `i` (AA): R251, mode R134. -/
def execTax (s : State) : Result := .next (toX s.c s)

/-- TAY `i` (A8): R252, mode R134. -/
def execTay (s : State) : Result := .next (toY s.c s)

/-- TXA `i` (8A): R253, mode R134. -/
def execTxa (s : State) : Result := .next (toA s.x s)

/-- TYA `i` (98): R254, mode R134. -/
def execTya (s : State) : Result := .next (toA s.y s)

/-- TXY `i` (9B): R257, mode R134. -/
def execTxy (s : State) : Result := .next (toY s.x s)

/-- TYX `i` (BB): R258, mode R134. -/
def execTyx (s : State) : Result := .next (toX s.y s)

/-- TSX `i` (BA): R255, mode R134. -/
def execTsx (s : State) : Result := .next (toX s.sp s)

/-- TXS `i` (9A): R256, mode R134. -/
def execTxs (s : State) : Result := .next (toS s.x s)

/-- TCS `i` (1B): R261, mode R134. -/
def execTcs (s : State) : Result := .next (toS s.c s)

/-- TSC `i` (3B): R262, mode R134. -/
def execTsc (s : State) : Result := .next (toC s.sp s)

/-- TCD `i` (5B): R259, mode R134. -/
def execTcd (s : State) : Result := .next (toD s.c s)

/-- TDC `i` (7B): R260, mode R134. -/
def execTdc (s : State) : Result := .next (toC s.d s)

/-- XCE `i` (FB): R263, mode R134. -/
def execXce (s : State) : Result := .next (exchangeCarryEmulation s)

/-- XBA `i` (EB): R264, mode R134. -/
def execXba (s : State) : Result := .next (exchangeBA s)

end Sys2Proof.Machine
end

