-- ==== Sys2Proof/Machine/Dispatch.lean ====
section
/-! DEFINITION. What every instruction does: one arm per constructor of Instr, each a direct call of its meaning. -/

namespace Sys2Proof.Machine

def exec (i : Instr) (s : State) : Host.Outcome State Fault Refusal :=
  match i with
  | .brk sig => Sys2Proof.Machine.execBrk sig s
  | .oraDirIndX dOff => Sys2Proof.Machine.execOraDirIndX dOff s
  | .cop sig => Sys2Proof.Machine.execCop sig s
  | .oraSr so => Sys2Proof.Machine.execOraSr so s
  | .tsbDir dOff => Sys2Proof.Machine.execTsbDir dOff s
  | .oraDir dOff => Sys2Proof.Machine.execOraDir dOff s
  | .aslDir dOff => Sys2Proof.Machine.execAslDir dOff s
  | .oraDirIndLong dOff => Sys2Proof.Machine.execOraDirIndLong dOff s
  | .oraImm imm => Sys2Proof.Machine.execOraImm imm s
  | .tsbAbs aa => Sys2Proof.Machine.execTsbAbs aa s
  | .oraAbs aa => Sys2Proof.Machine.execOraAbs aa s
  | .aslAbs aa => Sys2Proof.Machine.execAslAbs aa s
  | .oraLong aal => Sys2Proof.Machine.execOraLong aal s
  | .bpl off => Sys2Proof.Machine.execBpl off s
  | .oraDirIndY dOff => Sys2Proof.Machine.execOraDirIndY dOff s
  | .oraDirInd dOff => Sys2Proof.Machine.execOraDirInd dOff s
  | .oraSrIndY so => Sys2Proof.Machine.execOraSrIndY so s
  | .trbDir dOff => Sys2Proof.Machine.execTrbDir dOff s
  | .oraDirX dOff => Sys2Proof.Machine.execOraDirX dOff s
  | .aslDirX dOff => Sys2Proof.Machine.execAslDirX dOff s
  | .oraDirIndLongY dOff => Sys2Proof.Machine.execOraDirIndLongY dOff s
  | .oraAbsY aa => Sys2Proof.Machine.execOraAbsY aa s
  | .trbAbs aa => Sys2Proof.Machine.execTrbAbs aa s
  | .oraAbsX aa => Sys2Proof.Machine.execOraAbsX aa s
  | .aslAbsX aa => Sys2Proof.Machine.execAslAbsX aa s
  | .oraLongX aal => Sys2Proof.Machine.execOraLongX aal s
  | .jsrAbs aa => Sys2Proof.Machine.execJsrAbs aa s
  | .andDirIndX dOff => Sys2Proof.Machine.execAndDirIndX dOff s
  | .jsl aal => Sys2Proof.Machine.execJsl aal s
  | .andSr so => Sys2Proof.Machine.execAndSr so s
  | .bitDir dOff => Sys2Proof.Machine.execBitDir dOff s
  | .andDir dOff => Sys2Proof.Machine.execAndDir dOff s
  | .rolDir dOff => Sys2Proof.Machine.execRolDir dOff s
  | .andDirIndLong dOff => Sys2Proof.Machine.execAndDirIndLong dOff s
  | .andImm imm => Sys2Proof.Machine.execAndImm imm s
  | .bitAbs aa => Sys2Proof.Machine.execBitAbs aa s
  | .andAbs aa => Sys2Proof.Machine.execAndAbs aa s
  | .rolAbs aa => Sys2Proof.Machine.execRolAbs aa s
  | .andLong aal => Sys2Proof.Machine.execAndLong aal s
  | .bmi off => Sys2Proof.Machine.execBmi off s
  | .andDirIndY dOff => Sys2Proof.Machine.execAndDirIndY dOff s
  | .andDirInd dOff => Sys2Proof.Machine.execAndDirInd dOff s
  | .andSrIndY so => Sys2Proof.Machine.execAndSrIndY so s
  | .bitDirX dOff => Sys2Proof.Machine.execBitDirX dOff s
  | .andDirX dOff => Sys2Proof.Machine.execAndDirX dOff s
  | .rolDirX dOff => Sys2Proof.Machine.execRolDirX dOff s
  | .andDirIndLongY dOff => Sys2Proof.Machine.execAndDirIndLongY dOff s
  | .andAbsY aa => Sys2Proof.Machine.execAndAbsY aa s
  | .bitAbsX aa => Sys2Proof.Machine.execBitAbsX aa s
  | .andAbsX aa => Sys2Proof.Machine.execAndAbsX aa s
  | .rolAbsX aa => Sys2Proof.Machine.execRolAbsX aa s
  | .andLongX aal => Sys2Proof.Machine.execAndLongX aal s
  | .eorDirIndX dOff => Sys2Proof.Machine.execEorDirIndX dOff s
  | .wdm ignored => Sys2Proof.Machine.execWdm ignored s
  | .eorSr so => Sys2Proof.Machine.execEorSr so s
  | .mvp dba sba => Sys2Proof.Machine.execMvp dba sba s
  | .eorDir dOff => Sys2Proof.Machine.execEorDir dOff s
  | .lsrDir dOff => Sys2Proof.Machine.execLsrDir dOff s
  | .eorDirIndLong dOff => Sys2Proof.Machine.execEorDirIndLong dOff s
  | .eorImm imm => Sys2Proof.Machine.execEorImm imm s
  | .jmpAbs aa => Sys2Proof.Machine.execJmpAbs aa s
  | .eorAbs aa => Sys2Proof.Machine.execEorAbs aa s
  | .lsrAbs aa => Sys2Proof.Machine.execLsrAbs aa s
  | .eorLong aal => Sys2Proof.Machine.execEorLong aal s
  | .bvc off => Sys2Proof.Machine.execBvc off s
  | .eorDirIndY dOff => Sys2Proof.Machine.execEorDirIndY dOff s
  | .eorDirInd dOff => Sys2Proof.Machine.execEorDirInd dOff s
  | .eorSrIndY so => Sys2Proof.Machine.execEorSrIndY so s
  | .mvn dba sba => Sys2Proof.Machine.execMvn dba sba s
  | .eorDirX dOff => Sys2Proof.Machine.execEorDirX dOff s
  | .lsrDirX dOff => Sys2Proof.Machine.execLsrDirX dOff s
  | .eorDirIndLongY dOff => Sys2Proof.Machine.execEorDirIndLongY dOff s
  | .eorAbsY aa => Sys2Proof.Machine.execEorAbsY aa s
  | .jmpLong aal => Sys2Proof.Machine.execJmpLong aal s
  | .eorAbsX aa => Sys2Proof.Machine.execEorAbsX aa s
  | .lsrAbsX aa => Sys2Proof.Machine.execLsrAbsX aa s
  | .eorLongX aal => Sys2Proof.Machine.execEorLongX aal s
  | .adcDirIndX dOff => Sys2Proof.Machine.execAdcDirIndX dOff s
  | .per off => Sys2Proof.Machine.execPer off s
  | .adcSr so => Sys2Proof.Machine.execAdcSr so s
  | .stzDir dOff => Sys2Proof.Machine.execStzDir dOff s
  | .adcDir dOff => Sys2Proof.Machine.execAdcDir dOff s
  | .rorDir dOff => Sys2Proof.Machine.execRorDir dOff s
  | .adcDirIndLong dOff => Sys2Proof.Machine.execAdcDirIndLong dOff s
  | .adcImm imm => Sys2Proof.Machine.execAdcImm imm s
  | .jmpAbsInd aa => Sys2Proof.Machine.execJmpAbsInd aa s
  | .adcAbs aa => Sys2Proof.Machine.execAdcAbs aa s
  | .rorAbs aa => Sys2Proof.Machine.execRorAbs aa s
  | .adcLong aal => Sys2Proof.Machine.execAdcLong aal s
  | .bvs off => Sys2Proof.Machine.execBvs off s
  | .adcDirIndY dOff => Sys2Proof.Machine.execAdcDirIndY dOff s
  | .adcDirInd dOff => Sys2Proof.Machine.execAdcDirInd dOff s
  | .adcSrIndY so => Sys2Proof.Machine.execAdcSrIndY so s
  | .stzDirX dOff => Sys2Proof.Machine.execStzDirX dOff s
  | .adcDirX dOff => Sys2Proof.Machine.execAdcDirX dOff s
  | .rorDirX dOff => Sys2Proof.Machine.execRorDirX dOff s
  | .adcDirIndLongY dOff => Sys2Proof.Machine.execAdcDirIndLongY dOff s
  | .adcAbsY aa => Sys2Proof.Machine.execAdcAbsY aa s
  | .jmpAbsIndX aa => Sys2Proof.Machine.execJmpAbsIndX aa s
  | .adcAbsX aa => Sys2Proof.Machine.execAdcAbsX aa s
  | .rorAbsX aa => Sys2Proof.Machine.execRorAbsX aa s
  | .adcLongX aal => Sys2Proof.Machine.execAdcLongX aal s
  | .bra off => Sys2Proof.Machine.execBra off s
  | .staDirIndX dOff => Sys2Proof.Machine.execStaDirIndX dOff s
  | .brl off => Sys2Proof.Machine.execBrl off s
  | .staSr so => Sys2Proof.Machine.execStaSr so s
  | .styDir dOff => Sys2Proof.Machine.execStyDir dOff s
  | .staDir dOff => Sys2Proof.Machine.execStaDir dOff s
  | .stxDir dOff => Sys2Proof.Machine.execStxDir dOff s
  | .staDirIndLong dOff => Sys2Proof.Machine.execStaDirIndLong dOff s
  | .bitImm imm => Sys2Proof.Machine.execBitImm imm s
  | .styAbs aa => Sys2Proof.Machine.execStyAbs aa s
  | .staAbs aa => Sys2Proof.Machine.execStaAbs aa s
  | .stxAbs aa => Sys2Proof.Machine.execStxAbs aa s
  | .staLong aal => Sys2Proof.Machine.execStaLong aal s
  | .bcc off => Sys2Proof.Machine.execBcc off s
  | .staDirIndY dOff => Sys2Proof.Machine.execStaDirIndY dOff s
  | .staDirInd dOff => Sys2Proof.Machine.execStaDirInd dOff s
  | .staSrIndY so => Sys2Proof.Machine.execStaSrIndY so s
  | .styDirX dOff => Sys2Proof.Machine.execStyDirX dOff s
  | .staDirX dOff => Sys2Proof.Machine.execStaDirX dOff s
  | .stxDirY dOff => Sys2Proof.Machine.execStxDirY dOff s
  | .staDirIndLongY dOff => Sys2Proof.Machine.execStaDirIndLongY dOff s
  | .staAbsY aa => Sys2Proof.Machine.execStaAbsY aa s
  | .stzAbs aa => Sys2Proof.Machine.execStzAbs aa s
  | .staAbsX aa => Sys2Proof.Machine.execStaAbsX aa s
  | .stzAbsX aa => Sys2Proof.Machine.execStzAbsX aa s
  | .staLongX aal => Sys2Proof.Machine.execStaLongX aal s
  | .ldyImm imm => Sys2Proof.Machine.execLdyImm imm s
  | .ldaDirIndX dOff => Sys2Proof.Machine.execLdaDirIndX dOff s
  | .ldxImm imm => Sys2Proof.Machine.execLdxImm imm s
  | .ldaSr so => Sys2Proof.Machine.execLdaSr so s
  | .ldyDir dOff => Sys2Proof.Machine.execLdyDir dOff s
  | .ldaDir dOff => Sys2Proof.Machine.execLdaDir dOff s
  | .ldxDir dOff => Sys2Proof.Machine.execLdxDir dOff s
  | .ldaDirIndLong dOff => Sys2Proof.Machine.execLdaDirIndLong dOff s
  | .ldaImm imm => Sys2Proof.Machine.execLdaImm imm s
  | .ldyAbs aa => Sys2Proof.Machine.execLdyAbs aa s
  | .ldaAbs aa => Sys2Proof.Machine.execLdaAbs aa s
  | .ldxAbs aa => Sys2Proof.Machine.execLdxAbs aa s
  | .ldaLong aal => Sys2Proof.Machine.execLdaLong aal s
  | .bcs off => Sys2Proof.Machine.execBcs off s
  | .ldaDirIndY dOff => Sys2Proof.Machine.execLdaDirIndY dOff s
  | .ldaDirInd dOff => Sys2Proof.Machine.execLdaDirInd dOff s
  | .ldaSrIndY so => Sys2Proof.Machine.execLdaSrIndY so s
  | .ldyDirX dOff => Sys2Proof.Machine.execLdyDirX dOff s
  | .ldaDirX dOff => Sys2Proof.Machine.execLdaDirX dOff s
  | .ldxDirY dOff => Sys2Proof.Machine.execLdxDirY dOff s
  | .ldaDirIndLongY dOff => Sys2Proof.Machine.execLdaDirIndLongY dOff s
  | .ldaAbsY aa => Sys2Proof.Machine.execLdaAbsY aa s
  | .ldyAbsX aa => Sys2Proof.Machine.execLdyAbsX aa s
  | .ldaAbsX aa => Sys2Proof.Machine.execLdaAbsX aa s
  | .ldxAbsY aa => Sys2Proof.Machine.execLdxAbsY aa s
  | .ldaLongX aal => Sys2Proof.Machine.execLdaLongX aal s
  | .cpyImm imm => Sys2Proof.Machine.execCpyImm imm s
  | .cmpDirIndX dOff => Sys2Proof.Machine.execCmpDirIndX dOff s
  | .rep mask => Sys2Proof.Machine.execRep mask s
  | .cmpSr so => Sys2Proof.Machine.execCmpSr so s
  | .cpyDir dOff => Sys2Proof.Machine.execCpyDir dOff s
  | .cmpDir dOff => Sys2Proof.Machine.execCmpDir dOff s
  | .decDir dOff => Sys2Proof.Machine.execDecDir dOff s
  | .cmpDirIndLong dOff => Sys2Proof.Machine.execCmpDirIndLong dOff s
  | .cmpImm imm => Sys2Proof.Machine.execCmpImm imm s
  | .cpyAbs aa => Sys2Proof.Machine.execCpyAbs aa s
  | .cmpAbs aa => Sys2Proof.Machine.execCmpAbs aa s
  | .decAbs aa => Sys2Proof.Machine.execDecAbs aa s
  | .cmpLong aal => Sys2Proof.Machine.execCmpLong aal s
  | .bne off => Sys2Proof.Machine.execBne off s
  | .cmpDirIndY dOff => Sys2Proof.Machine.execCmpDirIndY dOff s
  | .cmpDirInd dOff => Sys2Proof.Machine.execCmpDirInd dOff s
  | .cmpSrIndY so => Sys2Proof.Machine.execCmpSrIndY so s
  | .pei dOff => Sys2Proof.Machine.execPei dOff s
  | .cmpDirX dOff => Sys2Proof.Machine.execCmpDirX dOff s
  | .decDirX dOff => Sys2Proof.Machine.execDecDirX dOff s
  | .cmpDirIndLongY dOff => Sys2Proof.Machine.execCmpDirIndLongY dOff s
  | .cmpAbsY aa => Sys2Proof.Machine.execCmpAbsY aa s
  | .jml aa => Sys2Proof.Machine.execJml aa s
  | .cmpAbsX aa => Sys2Proof.Machine.execCmpAbsX aa s
  | .decAbsX aa => Sys2Proof.Machine.execDecAbsX aa s
  | .cmpLongX aal => Sys2Proof.Machine.execCmpLongX aal s
  | .cpxImm imm => Sys2Proof.Machine.execCpxImm imm s
  | .sbcDirIndX dOff => Sys2Proof.Machine.execSbcDirIndX dOff s
  | .sep mask => Sys2Proof.Machine.execSep mask s
  | .sbcSr so => Sys2Proof.Machine.execSbcSr so s
  | .cpxDir dOff => Sys2Proof.Machine.execCpxDir dOff s
  | .sbcDir dOff => Sys2Proof.Machine.execSbcDir dOff s
  | .incDir dOff => Sys2Proof.Machine.execIncDir dOff s
  | .sbcDirIndLong dOff => Sys2Proof.Machine.execSbcDirIndLong dOff s
  | .sbcImm imm => Sys2Proof.Machine.execSbcImm imm s
  | .cpxAbs aa => Sys2Proof.Machine.execCpxAbs aa s
  | .sbcAbs aa => Sys2Proof.Machine.execSbcAbs aa s
  | .incAbs aa => Sys2Proof.Machine.execIncAbs aa s
  | .sbcLong aal => Sys2Proof.Machine.execSbcLong aal s
  | .beq off => Sys2Proof.Machine.execBeq off s
  | .sbcDirIndY dOff => Sys2Proof.Machine.execSbcDirIndY dOff s
  | .sbcDirInd dOff => Sys2Proof.Machine.execSbcDirInd dOff s
  | .sbcSrIndY so => Sys2Proof.Machine.execSbcSrIndY so s
  | .pea aa => Sys2Proof.Machine.execPea aa s
  | .sbcDirX dOff => Sys2Proof.Machine.execSbcDirX dOff s
  | .incDirX dOff => Sys2Proof.Machine.execIncDirX dOff s
  | .sbcDirIndLongY dOff => Sys2Proof.Machine.execSbcDirIndLongY dOff s
  | .sbcAbsY aa => Sys2Proof.Machine.execSbcAbsY aa s
  | .jsrAbsIndX aa => Sys2Proof.Machine.execJsrAbsIndX aa s
  | .sbcAbsX aa => Sys2Proof.Machine.execSbcAbsX aa s
  | .incAbsX aa => Sys2Proof.Machine.execIncAbsX aa s
  | .sbcLongX aal => Sys2Proof.Machine.execSbcLongX aal s
  | .php => Sys2Proof.Machine.execPhp s
  | .aslAcc => Sys2Proof.Machine.execAslAcc s
  | .phd => Sys2Proof.Machine.execPhd s
  | .clc => Sys2Proof.Machine.execClc s
  | .incAcc => Sys2Proof.Machine.execIncAcc s
  | .tcs => Sys2Proof.Machine.execTcs s
  | .plp => Sys2Proof.Machine.execPlp s
  | .rolAcc => Sys2Proof.Machine.execRolAcc s
  | .pld => Sys2Proof.Machine.execPld s
  | .sec => Sys2Proof.Machine.execSec s
  | .decAcc => Sys2Proof.Machine.execDecAcc s
  | .tsc => Sys2Proof.Machine.execTsc s
  | .rti => Sys2Proof.Machine.execRti s
  | .pha => Sys2Proof.Machine.execPha s
  | .lsrAcc => Sys2Proof.Machine.execLsrAcc s
  | .phk => Sys2Proof.Machine.execPhk s
  | .cli => Sys2Proof.Machine.execCli s
  | .phy => Sys2Proof.Machine.execPhy s
  | .tcd => Sys2Proof.Machine.execTcd s
  | .rts => Sys2Proof.Machine.execRts s
  | .pla => Sys2Proof.Machine.execPla s
  | .rorAcc => Sys2Proof.Machine.execRorAcc s
  | .rtl => Sys2Proof.Machine.execRtl s
  | .sei => Sys2Proof.Machine.execSei s
  | .ply => Sys2Proof.Machine.execPly s
  | .tdc => Sys2Proof.Machine.execTdc s
  | .dey => Sys2Proof.Machine.execDey s
  | .txa => Sys2Proof.Machine.execTxa s
  | .phb => Sys2Proof.Machine.execPhb s
  | .tya => Sys2Proof.Machine.execTya s
  | .txs => Sys2Proof.Machine.execTxs s
  | .txy => Sys2Proof.Machine.execTxy s
  | .tay => Sys2Proof.Machine.execTay s
  | .tax => Sys2Proof.Machine.execTax s
  | .plb => Sys2Proof.Machine.execPlb s
  | .clv => Sys2Proof.Machine.execClv s
  | .tsx => Sys2Proof.Machine.execTsx s
  | .tyx => Sys2Proof.Machine.execTyx s
  | .iny => Sys2Proof.Machine.execIny s
  | .dex => Sys2Proof.Machine.execDex s
  | .wai => Sys2Proof.Machine.execWai s
  | .cld => Sys2Proof.Machine.execCld s
  | .phx => Sys2Proof.Machine.execPhx s
  | .stp => Sys2Proof.Machine.execStp s
  | .inx => Sys2Proof.Machine.execInx s
  | .nop => Sys2Proof.Machine.execNop s
  | .xba => Sys2Proof.Machine.execXba s
  | .sed => Sys2Proof.Machine.execSed s
  | .plx => Sys2Proof.Machine.execPlx s
  | .xce => Sys2Proof.Machine.execXce s

end Sys2Proof.Machine
end

