-- ==== Sys2Proof/Machine/Step.lean ====
section
/-! DEFINITION. One step of the processor (00_scope.md R12, 60_exceptions.md R420): an interrupt sequence, a reset, or an
instruction. Everything it calls is in Boundary.lean, Bus.lean, Placement.lean and Dispatch.lean. -/

namespace Sys2Proof.Machine

/-- What a sampled state does for the action its boundary chose. -/
def perform (s : State) (a : Action) : Host.Outcome State Fault Refusal :=
  match a with
  | .reset => .next (resetStep s)
  | .stopped => .next s
  | .waiting => .next s
  | .abortDuringAbort => .refused .abortDuringAbort
  | .take k r => .next (takeInterrupt k r s)
  | .abandon n b => .next (abandonStep n b s)
  | .run =>
    match exec s.fetch s with
    | .next t => .next (settle s (settleMX s.fetch t))
    | .fault f => .fault f
    | .refused r => .refused r

/-- One step (R12): the boundary decides, then the action is performed. -/
def step (s : State) : Host.Outcome State Fault Refusal := perform (boundary s).1 (boundary s).2

/-- The state with an instruction placed where the next step fetches it, so that the very next step runs it (log 4). -/
def State.withFetchWord (s : State) (nbits w : Nat) : State := placeWord nbits w (quiet s)

end Sys2Proof.Machine
end

