-- ==== Sys2Proof/Safety.lean ====
section
/-! DEFINITION. The terms the statements are made in: what a step leaves unchanged, the invariants of the machine, who may
write which register or flag (10_state.md R26, R32, R34, R35, R38), and what a run without a refusal is. -/

namespace Sys2Proof.Machine

/-! ### Frames -/

/-- The fields of State. -/
inductive Field where
  | c | x | y | sp | d | dbr | pbr | pc | p | e | mem | nmiPending | nmiPrev | abortPending | waiting | stopped | pins
  | input | mxInvalid | draws
  deriving DecidableEq, Repr

/-- Two states agree on a field. -/
def Field.same (f : Field) (s t : State) : Prop :=
  match f with
  | .c => t.c = s.c
  | .x => t.x = s.x
  | .y => t.y = s.y
  | .sp => t.sp = s.sp
  | .d => t.d = s.d
  | .dbr => t.dbr = s.dbr
  | .pbr => t.pbr = s.pbr
  | .pc => t.pc = s.pc
  | .p => t.p = s.p
  | .e => t.e = s.e
  | .mem => t.mem = s.mem
  | .nmiPending => t.nmiPending = s.nmiPending
  | .nmiPrev => t.nmiPrev = s.nmiPrev
  | .abortPending => t.abortPending = s.abortPending
  | .waiting => t.waiting = s.waiting
  | .stopped => t.stopped = s.stopped
  | .pins => t.pins = s.pins
  | .input => t.input = s.input
  | .mxInvalid => t.mxInvalid = s.mxInvalid
  | .draws => t.draws = s.draws

/-- Only the fields of a list may differ. -/
def OnlyChanges (fs : List Field) (s t : State) : Prop := ∀ f, f ∉ fs → f.same s t

/-- The bits of P outside a mask are as before. -/
def FlagsKept (written : Byte) (s t : State) : Prop := t.p &&& ~~~written = s.p &&& ~~~written

/-- Every byte of memory outside a list of addresses reads as before. -/
def MemoryKept (stored : List Addr) (s t : State) : Prop := ∀ a, a ∉ stored → t.readByte a = s.readByte a

/-- The instruction answers a next state `t`; only the listed fields differ, of P only the flags of the mask, of memory only the
stored bytes; and `t` is as `post` says. -/
def CompletesWith (i : Instr) (s : State) (fields : List Field) (flags : Byte) (stored : List Addr)
    (post : State → Prop) : Prop :=
  ∃ t, exec i s = .next t ∧ OnlyChanges fields s t ∧ FlagsKept flags s t ∧ MemoryKept stored s t ∧ post t

/-- The first bytes of some instructions, in order: the opcodes of their encodings. -/
def opcodesOf (f : Widths) (is : List Instr) : List (Option Byte) := is.map fun i => (encode f i).head?

/-- S after `k` one-byte pushes (00_scope.md R10): in emulation mode only SL moves. -/
def spAfterPush (s : State) (k : Nat) : Word :=
  if s.e then word (hi s.sp) (lo s.sp - BitVec.ofNat 8 k) else s.sp - BitVec.ofNat 16 k

/-- S after `k` one-byte pulls (R10). -/
def spAfterPull (s : State) (k : Nat) : Word :=
  if s.e then word (hi s.sp) (lo s.sp + BitVec.ofNat 8 k) else s.sp + BitVec.ofNat 16 k

/-- An address in bank 0. -/
def bank0 (a : Word) : Addr := addr 0x00 a

/-- A value at a width as a signed number (two's complement). -/
def signedOf (w : Width) (v : Word) : Int :=
  match w with
  | .w8 => (lo v).toInt
  | .w16 => v.toInt

/-! ### Invariants -/

/-- The invariants of the mode bits (10_state.md R34). -/
def ModeInv (s : State) : Prop :=
  (s.e = true → s.fM = true ∧ s.fX = true) ∧ (s.e = true → hi s.sp = 0x01) ∧
    (s.fX = true → hi s.x = 0x00 ∧ hi s.y = 0x00)

/-- Memory has its canonical form. -/
def MemInv (s : State) : Prop := Memory.wf s.mem = true

end Sys2Proof.Machine

namespace Sys2Proof

open Machine

/-! ### Who writes what -/

/-- The mask of the flags an instruction may write (10_state.md R35; 45_status.md section 4), as bits of P. -/
def Mnemonic.flagsWritten : Mnemonic → Byte
  | .adc | .sbc => 0xC3
  | .asl | .lsr | .rol | .ror | .cmp | .cpx | .cpy => 0x83
  | .bit => 0xC2
  | .and | .eor | .ora | .lda | .ldx | .ldy | .inc | .dec | .inx | .iny | .dex | .dey | .pla | .plb | .pld | .plx | .ply
  | .tax | .tay | .tcd | .tdc | .tsc | .tsx | .txa | .txy | .tya | .tyx | .xba => 0x82
  | .tsb | .trb => 0x02
  | .clc | .sec => 0x01
  | .xce => 0x31
  | .cld | .sed => 0x08
  | .cli | .sei => 0x04
  | .clv => 0x40
  | .brk | .cop => 0x0C
  | .plp | .rti | .rep | .sep => 0xFF
  | .bcc | .bcs | .beq | .bmi | .bne | .bpl | .bra | .brl | .bvc | .bvs | .jml | .jmp | .jsl | .jsr | .mvn | .mvp | .nop
  | .pea | .pei | .per | .pha | .phb | .phd | .phk | .php | .phx | .phy | .rtl | .rts | .sta | .stp | .stx | .sty | .stz
  | .tcs | .txs | .wai | .wdm => 0x00

/-- The opcodes whose own effect may write PBR (10_state.md R26, R39): RTI, RTL, JML, JSL, JMP `al`, and the interrupts BRK and
COP. -/
def Instr.writesPbr : Instr → Bool
  | .rti | .rtl | .jml _ | .jsl _ | .jmpLong _ | .brk _ | .cop _ => true
  | _ => false

/-- The mnemonics that may write DBR (R38). -/
def Mnemonic.writesDbr : Mnemonic → Bool
  | .plb | .mvn | .mvp | .brk | .cop => true
  | _ => false

/-- The mnemonics that may write D (R37). -/
def Mnemonic.writesD : Mnemonic → Bool
  | .tcd | .pld => true
  | _ => false

/-- The mnemonics that store to memory. -/
def Mnemonic.stores : Mnemonic → Bool
  | .sta | .stx | .sty | .stz | .asl | .lsr | .rol | .ror | .inc | .dec | .tsb | .trb | .pha | .phb | .phd | .phk | .php
  | .phx | .phy | .pea | .pei | .per | .jsr | .jsl | .brk | .cop | .mvn | .mvp => true
  | _ => false

/-- The result and the carry of a shift or rotate of a number below 2^b with a carry in (42_shift_rmw.md R241 to R244). -/
def Mnemonic.shiftResult (mn : Mnemonic) (b c n : Nat) : Option (Nat × Bool) :=
  match mn with
  | .asl => some (2 * n % 2 ^ b, decide (2 ^ (b - 1) ≤ n))
  | .lsr => some (n / 2, decide (n % 2 = 1))
  | .rol => some ((2 * n + c) % 2 ^ b, decide (2 ^ (b - 1) ≤ n))
  | .ror => some (n / 2 + c * 2 ^ (b - 1), decide (n % 2 = 1))
  | _ => none

end Sys2Proof

namespace Sys2Proof.Machine

/-! ### Memory as the bus sees it -/

/-- Every valid read cycle of a list shows what a platform with these answers gives for a read of the cycle's kind, over the
memory there is when its turn comes and after the reads before it. -/
def ReadsSeeMemory : List Answer → Memory → List BusCycle → Prop
  | _, _, [] => True
  | answers, m, c :: rest =>
    (c.valid = true → c.rwb = true → ∀ v, c.data = some v → v = memAnswer answers m c.kind c.addr) ∧
      ReadsSeeMemory (c.use answers) (c.apply m) rest

/-- The platform answers no data read itself, so that a data read gets the byte memory holds. -/
def PlainData (s : State) : Prop := ∀ a, answerFor s.pins.answers .data a = none

/-! ### Safe runs -/

/-- The platform never pulses ABORTB (the default platform, 92 D10). -/
def NeverAborts (s : State) : Prop := ∀ p ∈ s.input, p.abort = false

/-- A run of `n` steps that no fault and no refusal ends (60_exceptions.md R401). -/
def RunsOn (n : Nat) (s : State) : Prop := ∃ t, Sys2Proof.core.run n s = .next t

/-- A run of `n` steps is safe where it goes on and keeps the invariants. -/
def SafeRun (n : Nat) (s : State) : Prop :=
  ∃ t, Sys2Proof.core.run n s = .next t ∧ ModeInv t ∧ MemInv t

end Sys2Proof.Machine
end

