-- ==== Sys2Proof/Certificates/Slice0/Obligations.lean ====
section
/-! DEFINITION. The statements for the provers, each about the machine of spec/ and no program. Frames are said by
`CompletesWith` (Safety.lean): which fields, flags and bytes of memory may change, all else being kept. -/

open Sys2Proof Sys2Proof.Machine

/-! ### Encoding -/

/-- Decoding the bytes of a well-formed instruction, whatever follows them, gives the instruction and the rest
(30_encoding.md R100 to R107). -/
def Obligations.DecodeEncode : Prop :=
  ∀ (f : Widths) (i : Instr) (rest : List Byte), WellFormed f i → decode f (encode f i ++ rest) = .ok (i, rest)

/-- What decodes is well formed, and its encoding is exactly the bytes that were read (30_encoding.md R100 to R107). -/
def Obligations.EncodeDecode : Prop :=
  ∀ (f : Widths) (bs rest : List Byte) (i : Instr), decode f bs = .ok (i, rest) →
    WellFormed f i ∧ encode f i ++ rest = bs

/-- All 256 opcodes decode, with any operand bytes and any width flags, in one to four bytes; the opcode byte alone selects
the mnemonic; and an immediate governed by a flag is two bytes long where the flag is 1 and three where it is 0, while no
other length depends on the flags (30_encoding.md R100, R103, R106). -/
def Obligations.EveryOpcodeDecodes : Prop :=
  (∀ (f : Widths) (b0 b1 b2 b3 : Byte) (rest : List Byte), ∃ i,
    decode f (b0 :: b1 :: b2 :: b3 :: rest) = .ok (i, (b0 :: b1 :: b2 :: b3 :: rest).drop (i.len f)) ∧
      1 ≤ i.len f ∧ i.len f ≤ 4) ∧
  (∀ (f g : Widths) (b : Byte) (l l' r r' : List Byte) (i j : Instr),
    decode f (b :: l) = .ok (i, r) → decode g (b :: l') = .ok (j, r') → i.mnemonic = j.mnemonic) ∧
  ∀ (i : Instr) (f g : Widths),
    (∀ v, i.operand? = some (.imm v) → i.len f = if (if i.mnemonic.usesX then f.x else f.m) then 2 else 3) ∧
    ((∀ v, i.operand? ≠ some (.imm v)) → i.len f = i.len g)

/-- Some words of the encoding tables, written out, with the instructions they stand for (30_encoding.md section 4). -/
def Obligations.SampleWords : Prop :=
  decode ⟨true, true⟩ [0xA9, 0x42, 0xEA] = .ok (.ldaImm 0x0042, [0xEA]) ∧
  decode ⟨false, true⟩ [0xA9, 0x42, 0xEA] = .ok (.ldaImm 0xEA42, []) ∧
  decode ⟨true, false⟩ [0xA2, 0x34, 0x12] = .ok (.ldxImm 0x1234, []) ∧
  decode ⟨true, true⟩ [0x6D, 0x34, 0x12] = .ok (.adcAbs 0x1234, []) ∧
  decode ⟨false, false⟩ [0x1E, 0xCD, 0xAB] = .ok (.aslAbsX 0xABCD, []) ∧
  decode ⟨true, true⟩ [0xAA] = .ok (.tax, []) ∧
  decode ⟨true, true⟩ [0xF4, 0x78, 0x56] = .ok (.pea 0x5678, []) ∧
  decode ⟨true, true⟩ [0xC2, 0x30] = .ok (.rep 0x30, []) ∧
  decode ⟨true, true⟩ [0x22, 0x56, 0x34, 0x12] = .ok (.jsl 0x123456, []) ∧
  decode ⟨true, true⟩ [0x54, 0x7F, 0x7E] = .ok (.mvn 0x7F 0x7E, []) ∧
  decode ⟨true, true⟩ [0x00, 0x99] = .ok (.brk 0x99, [])

/-! ### The step -/

/-- When the boundary decides to run an instruction, and the bytes at PBR:PC of the sampled state decode to `i`, the step is
exec of `i` there, with the MX mark set (log 14) and, if ABORTB was pulsed, the registers put back (log 9). -/
def Obligations.StepRunsDecoded : Prop :=
  ∀ (s : State) (i : Instr) (n : Nat) (rest : List Byte), (boundary s).2 = .run →
    let t := (boundary s).1
    decode t.widths ((List.range n).map t.fetchByte) = .ok (i, rest) →
    step s = match exec i t with
      | .next u => .next (settle t (settleMX i u))
      | .fault f => .fault f
      | .refused r => .refused r

/-- Every instruction answers a next state, in every state (60_exceptions.md R401): no opcode, address or operand faults. -/
def Obligations.ExecAlwaysNext : Prop := ∀ (i : Instr) (s : State), ∃ t, exec i s = .next t

/-- While the platform pulses no ABORTB, no run of any length is stopped by a fault or a refusal (R401, 92 D10). -/
def Obligations.RunsOnWithoutAbort : Prop := ∀ (n : Nat) (s : State), NeverAborts s → RunsOn n s

/-! ### Invariants -/

/-- Every step keeps the invariants of the mode bits (10_state.md R34): emulation mode has M = X = 1 and SH = 01, and X
= 1 has XH = YH = 00. The forcing of bits 5 and 4 by PLP and RTI is the spec's inference (log 17). -/
def Obligations.StepKeepsModeInv : Prop := ∀ (s t : State), ModeInv s → step s = .next t → ModeInv t

/-- Every step keeps the canonical form of memory (log 1). -/
def Obligations.StepKeepsMemInv : Prop := ∀ (s t : State), MemInv s → step s = .next t → MemInv t

/-- What State.reset holds where the spec gives the value (10_state.md R60). The values of A, B, XL, YL, SL, N, V, Z, C
and of memory are the model's own (log 1, log 2) and are not stated. The latches' values are the spec's decision D9 (log
17); PC's memory is empty (log 1, log 4). -/
def Obligations.ResetValues : Prop :=
  let s := State.reset
  s.d = 0x0000 ∧ s.dbr = 0x00 ∧ s.pbr = 0x00 ∧ hi s.sp = 0x01 ∧ hi s.x = 0x00 ∧ hi s.y = 0x00 ∧ s.e = true ∧
    s.fM = true ∧ s.fX = true ∧ s.fI = true ∧ s.fD = false ∧ s.waiting = false ∧ s.stopped = false ∧
    s.nmiPending = false ∧ s.abortPending = false ∧ s.pc = word (s.memRead .vector 0x00FFFD) (s.memRead .vector 0x00FFFC)

/-- The invariants of the mode bits and of memory hold at reset (R34, R60; log 1). -/
def Obligations.ResetInv : Prop := ModeInv State.reset ∧ MemInv State.reset

/-! ### Who writes what -/

/-- PBR is written only by RTI, RTL, JML, JSL, JMP `al`, BRK and COP (10_state.md R26, R39); D only by TCD and PLD (R37); DBR only
by PLB, MVN, MVP, and by BRK and COP in emulation mode (R38). -/
def Obligations.BanksAndDirectWrittenOnlyBy : Prop :=
  ∀ (i : Instr) (s t : State), exec i s = .next t →
    (i.writesPbr = false → t.pbr = s.pbr) ∧
    (i.mnemonic.writesD = false → t.d = s.d) ∧
    (i.mnemonic.writesDbr = false → t.dbr = s.dbr) ∧
    (i.mnemonic = .brk ∨ i.mnemonic = .cop → s.e = false → t.dbr = s.dbr)

/-- E changes only by XCE or in a reset: a reset step, or a step that RESB cuts short (10_state.md R32). -/
def Obligations.EmulationBitWrittenOnlyBy : Prop :=
  ∀ (s t : State), step s = .next t → t.e ≠ s.e →
    (boundary s).2 = .reset ∨ (∃ n a, (boundary s).2 = .abandon n a) ∨
      ((boundary s).2 = .run ∧ (boundary s).1.fetch = .xce)

/-- No instruction writes a flag outside the table of 10_state.md R35, nor memory unless it is one that stores. -/
def Obligations.FlagsAndMemoryWrittenOnlyBy : Prop :=
  ∀ (i : Instr) (s t : State), exec i s = .next t →
    FlagsKept i.mnemonic.flagsWritten s t ∧ (i.mnemonic.stores = false → MemoryKept [] s t)

/-! ### Addressing -/

/-- The address of the operand's low byte in each of the fifteen memory modes, and of the byte after it, as numbers
(31_addressing_modes.md R130, R131, R135 to R139, R142 to R149, R153, R154; 92 D3, D5, D24). D3, D5 and D24 are the
spec's decisions (log 17). -/
def Obligations.EffectiveAddresses : Prop :=
  ∀ (s : State) (aa : Word) (al : Addr) (d so : Byte),
    let a0 := fun m : MemMode => (m.loc s).a0.toNat
    let a1 := fun m : MemMode => (m.loc s).a1.toNat
    let rd := fun p : Nat => (s.memRead .data (BitVec.ofNat 24 p)).toNat
    let ptr := fun p q : Nat => rd p + 256 * rd q
    let dl := fun k : Nat => (s.d.toNat + d.toNat + k) % 65536
    let dp := fun k : Nat => if s.e = true ∧ lo s.d = 0 then s.d.toNat + (d.toNat + k) % 256 else dl k
    let sr := fun k : Nat => (s.sp.toNat + so.toNat + k) % 65536
    let bank := s.dbr.toNat * 65536
    a0 (.abs aa) = bank + aa.toNat ∧
    a0 (.absX aa) = (bank + aa.toNat + s.x.toNat) % 2 ^ 24 ∧
    a0 (.absY aa) = (bank + aa.toNat + s.y.toNat) % 2 ^ 24 ∧
    a0 (.long al) = al.toNat ∧
    a0 (.longX al) = (al.toNat + s.x.toNat) % 2 ^ 24 ∧
    a0 (.dir d) = dp 0 ∧ a1 (.dir d) = dp 1 ∧
    a0 (.dirX d) = dp s.x.toNat ∧ a1 (.dirX d) = dp (s.x.toNat + 1) ∧
    a0 (.dirY d) = dp s.y.toNat ∧ a1 (.dirY d) = dp (s.y.toNat + 1) ∧
    a0 (.dirInd d) = bank + ptr (dp 0) (dp 1) ∧
    a0 (.dirIndX d) = bank + ptr (dp s.x.toNat) (dp (s.x.toNat + 1)) ∧
    a0 (.dirIndY d) = (bank + ptr (dp 0) (dp 1) + s.y.toNat) % 2 ^ 24 ∧
    a0 (.dirIndLong d) = ptr (dl 0) (dl 1) + 65536 * rd (dl 2) ∧
    a0 (.dirIndLongY d) =
      (ptr (dl 0) (dl 1) + 65536 * rd (dl 2) + s.y.toNat) % 2 ^ 24 ∧
    a0 (.sr so) = sr 0 ∧ a1 (.sr so) = sr 1 ∧
    a0 (.srIndY so) = (bank + ptr (sr 0) (sr 1) + s.y.toNat) % 2 ^ 24 ∧
    (∀ m ∈ [MemMode.abs aa, .absX aa, .absY aa, .long al, .longX al, .dirInd d, .dirIndX d, .dirIndY d, .dirIndLong d,
      .dirIndLongY d, .srIndY so], a1 m = (a0 m + 1) % 2 ^ 24)

/-! ### Loads and stores -/

/-- LDA (40_load_store.md R201): the accumulator takes the operand at width wA, B is kept at width 8, N and Z come from
the operand; the fifteen opcodes. N and Z are as 00_scope.md R9 says, from general knowledge (log 17). -/
def Obligations.LoadAccumulator : Prop :=
  (∀ (f : Widths) (v aa : Word) (al : Addr) (d : Byte),
    opcodesOf f [.ldaImm v, .ldaAbs aa, .ldaAbsX aa, .ldaAbsY aa, .ldaLong al, .ldaLongX al, .ldaDir d, .ldaDirX d,
      .ldaDirInd d, .ldaDirIndX d, .ldaDirIndY d, .ldaDirIndLong d, .ldaDirIndLongY d, .ldaSr d, .ldaSrIndY d] =
    [some 0xA9, some 0xAD, some 0xBD, some 0xB9, some 0xAF, some 0xBF, some 0xA5, some 0xB5, some 0xB2, some 0xA1,
      some 0xB1, some 0xA7, some 0xB7, some 0xA3, some 0xB3]) ∧
  ∀ (i : Instr) (o : Operand) (s : State), i.mnemonic = .lda → i.operand? = some o →
    let v := o.read s.wA s
    CompletesWith i s [.c, .p, .pc] 0x82 [] fun t =>
      t.pc = s.pc + BitVec.ofNat 16 (o.len s.wA) ∧
      (s.fM = true → t.c = word (hi s.c) (lo v)) ∧ (s.fM = false → t.c = v) ∧
      t.fN = msb s.wA v ∧ t.fZ = isZero s.wA v

/-- LDX and LDY (R202, R203): the index register takes the operand at width wX, its high byte 00 at width 8; N and Z
from the operand; the ten opcodes. N and Z are as 00_scope.md R9 says, from general knowledge (log 17). -/
def Obligations.LoadIndex : Prop :=
  (∀ (f : Widths) (v aa : Word) (d : Byte),
    opcodesOf f [.ldxImm v, .ldxAbs aa, .ldxAbsY aa, .ldxDir d, .ldxDirY d, .ldyImm v, .ldyAbs aa, .ldyAbsX aa, .ldyDir d,
      .ldyDirX d] =
    [some 0xA2, some 0xAE, some 0xBE, some 0xA6, some 0xB6, some 0xA0, some 0xAC, some 0xBC, some 0xA4, some 0xB4]) ∧
  ∀ (i : Instr) (o : Operand) (s : State), i.operand? = some o →
    let v := o.read s.wX s
    let fits := fun r : Word => (s.fX = true → r = word 0x00 (lo v)) ∧ (s.fX = false → r = v)
    (i.mnemonic = .ldx → CompletesWith i s [.x, .p, .pc] 0x82 [] fun t =>
      t.pc = s.pc + BitVec.ofNat 16 (o.len s.wX) ∧ fits t.x ∧ t.fN = msb s.wX v ∧ t.fZ = isZero s.wX v) ∧
    (i.mnemonic = .ldy → CompletesWith i s [.y, .p, .pc] 0x82 [] fun t =>
      t.pc = s.pc + BitVec.ofNat 16 (o.len s.wX) ∧ fits t.y ∧ t.fN = msb s.wX v ∧ t.fZ = isZero s.wX v)

/-- STA, STX, STY, STZ (R204 to R207): the register, or zero, is stored at the width of its flag at the operand's address; no
flag and no register but PC changes; the twenty-four opcodes. -/
def Obligations.Stores : Prop :=
  (∀ (f : Widths) (aa : Word) (al : Addr) (d : Byte),
    opcodesOf f [.staAbs aa, .staAbsX aa, .staAbsY aa, .staLong al, .staLongX al, .staDir d, .staDirX d, .staDirInd d,
      .staDirIndX d, .staDirIndY d, .staDirIndLong d, .staDirIndLongY d, .staSr d, .staSrIndY d, .stxAbs aa, .stxDir d,
      .stxDirY d, .styAbs aa, .styDir d, .styDirX d, .stzAbs aa, .stzAbsX aa, .stzDir d, .stzDirX d] =
    [some 0x8D, some 0x9D, some 0x99, some 0x8F, some 0x9F, some 0x85, some 0x95, some 0x92, some 0x81, some 0x91,
      some 0x87, some 0x97, some 0x83, some 0x93, some 0x8E, some 0x86, some 0x96, some 0x8C, some 0x84, some 0x94,
      some 0x9C, some 0x9E, some 0x64, some 0x74]) ∧
  ∀ (i : Instr) (m : MemMode) (s : State), i.operand? = some (.mem m) →
    ∀ (mn : Mnemonic) (w : Width) (v : Word),
      (mn, w, v) ∈ [(.sta, s.wA, s.c), (.stx, s.wX, s.x), (.sty, s.wX, s.y), (.stz, s.wA, 0x0000)] → i.mnemonic = mn →
      CompletesWith i s [.mem, .pc] 0x00 ((m.loc s).bytes w) fun t =>
        t.pc = s.pc + BitVec.ofNat 16 m.len ∧ t.readByte (m.loc s).a0 = lo v ∧
          (w = .w16 → t.readByte (m.loc s).a1 = hi v)

/-! ### Arithmetic -/

/-- ADC in binary mode (41_arithmetic_logic.md R221, R223): the sum modulo 2^w with the carry in, C the carry out, V by
R221's formula, N and Z of the result. The formulas of C, V, N and Z are general knowledge of the spec (G1, G2; log 17).
-/
def Obligations.AddBinary : Prop :=
  ∀ (i : Instr) (o : Operand) (s : State), i.mnemonic = .adc → i.operand? = some o → s.fD = false →
    let w := s.wA
    let m := o.read w s
    let sum := (trunc w s.c).toNat + (trunc w m).toNat + (if s.fC then 1 else 0)
    CompletesWith i s [.c, .p, .pc] 0xC3 [] fun t =>
      t.pc = s.pc + BitVec.ofNat 16 (o.len w) ∧ (trunc w t.c).toNat = sum % 2 ^ w.bits ∧
      (w = .w8 → hi t.c = hi s.c) ∧ t.fC = decide (2 ^ w.bits ≤ sum) ∧
      t.fV = (msb w s.c == msb w m && msb w t.c != msb w s.c) ∧ t.fN = msb w t.c ∧ t.fZ = isZero w t.c

/-- SBC in binary mode (R224): the difference modulo 2^w with the borrow, C = no borrow, V = the signed result does not
fit, N and Z of the result. The reading of C, V, N and Z is general knowledge of the spec (G1, G4; log 17). -/
def Obligations.SubtractBinary : Prop :=
  ∀ (i : Instr) (o : Operand) (s : State), i.mnemonic = .sbc → i.operand? = some o → s.fD = false →
    let w := s.wA
    let m := o.read w s
    let borrow : Int := if s.fC then 0 else 1
    let diff : Int := ((trunc w s.c).toNat : Int) - ((trunc w m).toNat : Int) - borrow
    let signed : Int := signedOf w s.c - signedOf w m - borrow
    CompletesWith i s [.c, .p, .pc] 0xC3 [] fun t =>
      t.pc = s.pc + BitVec.ofNat 16 (o.len w) ∧ ((trunc w t.c).toNat : Int) = diff % 2 ^ w.bits ∧
      (w = .w8 → hi t.c = hi s.c) ∧ t.fC = decide (0 ≤ diff) ∧
      t.fV = decide (signed < -(2 ^ (w.bits - 1)) ∨ 2 ^ (w.bits - 1) ≤ signed) ∧ t.fN = msb w t.c ∧
      t.fZ = isZero w t.c

/-- ADC and SBC in decimal mode on valid digits (R222): the result is the packed decimal sum or difference modulo
10^digits, C the decimal carry or no-borrow, N and Z of the result; V is free (log 6). The decimal arithmetic is general
knowledge of the spec (G3; log 17). -/
def Obligations.DecimalValid : Prop :=
  ∀ (i : Instr) (o : Operand) (s : State), i.operand? = some o → s.fD = true →
    let w := s.wA
    let m := o.read w s
    let k := bcdDigits w
    validBcd w s.c = true → validBcd w m = true →
    ∀ n c, (i.mnemonic = .adc ∧ n = decOf w s.c + decOf w m + (if s.fC then 1 else 0) ∧ c = decide (10 ^ k ≤ n)) ∨
        (i.mnemonic = .sbc ∧ n = decOf w s.c - decOf w m - (if s.fC then 0 else 1) ∧ c = decide (0 ≤ n)) →
      CompletesWith i s [.c, .p, .pc, .draws] 0xC3 [] fun t =>
        t.pc = s.pc + BitVec.ofNat 16 (o.len w) ∧ validBcd w t.c = true ∧ decOf w t.c = n % 10 ^ k ∧
        (w = .w8 → hi t.c = hi s.c) ∧ t.fC = c ∧ t.fN = msb w t.c ∧ t.fZ = isZero w t.c

/-- ADC and SBC in decimal mode on an operand with a nibble above 9 (R222): the instruction completes; the accumulator and
N, V, Z, C are free values (log 6), everything else is as usual. -/
def Obligations.DecimalInvalidCompletes : Prop :=
  ∀ (i : Instr) (o : Operand) (s : State), i.mnemonic = .adc ∨ i.mnemonic = .sbc → i.operand? = some o → s.fD = true →
    validBcd s.wA s.c = false ∨ validBcd s.wA (o.read s.wA s) = false →
    CompletesWith i s [.c, .p, .pc, .draws] 0xC3 [] fun t =>
      t.pc = s.pc + BitVec.ofNat 16 (o.len s.wA) ∧ (s.fM = true → hi t.c = hi s.c)

/-- AND, ORA, EOR (R225 to R227): the bitwise result in the accumulator, N and Z from it; the forty-five opcodes. N and
Z are as 00_scope.md R9 says, from general knowledge (log 17). -/
def Obligations.Logic : Prop :=
  (∀ (f : Widths) (v aa : Word) (al : Addr) (d : Byte),
    opcodesOf f [.andImm v, .andAbs aa, .andAbsX aa, .andAbsY aa, .andLong al, .andLongX al, .andDir d, .andDirX d,
      .andDirInd d, .andDirIndX d, .andDirIndY d, .andDirIndLong d, .andDirIndLongY d, .andSr d, .andSrIndY d,
      .oraImm v, .oraAbs aa, .oraAbsX aa, .oraAbsY aa, .oraLong al, .oraLongX al, .oraDir d, .oraDirX d,
      .oraDirInd d, .oraDirIndX d, .oraDirIndY d, .oraDirIndLong d, .oraDirIndLongY d, .oraSr d, .oraSrIndY d,
      .eorImm v, .eorAbs aa, .eorAbsX aa, .eorAbsY aa, .eorLong al, .eorLongX al, .eorDir d, .eorDirX d,
      .eorDirInd d, .eorDirIndX d, .eorDirIndY d, .eorDirIndLong d, .eorDirIndLongY d, .eorSr d, .eorSrIndY d] =
    ([0x29, 0x2D, 0x3D, 0x39, 0x2F, 0x3F, 0x25, 0x35, 0x32, 0x21, 0x31, 0x27, 0x37, 0x23, 0x33,
      0x09, 0x0D, 0x1D, 0x19, 0x0F, 0x1F, 0x05, 0x15, 0x12, 0x01, 0x11, 0x07, 0x17, 0x03, 0x13,
      0x49, 0x4D, 0x5D, 0x59, 0x4F, 0x5F, 0x45, 0x55, 0x52, 0x41, 0x51, 0x47, 0x57, 0x43, 0x53] : List Byte).map some) ∧
  ∀ (i : Instr) (o : Operand) (s : State), i.operand? = some o →
    ∀ (mn : Mnemonic) (r : Word),
      (mn, r) ∈ [(.and, s.c &&& o.read s.wA s), (.ora, s.c ||| o.read s.wA s), (.eor, s.c ^^^ o.read s.wA s)] →
      i.mnemonic = mn →
      CompletesWith i s [.c, .p, .pc] 0x82 [] fun t =>
        t.pc = s.pc + BitVec.ofNat 16 (o.len s.wA) ∧ (s.fM = true → t.c = word (hi s.c) (lo r)) ∧
        (s.fM = false → t.c = r) ∧ t.fN = msb s.wA r ∧ t.fZ = isZero s.wA r

/-- CMP, CPX, CPY (R228 to R230): C = register at least operand, unsigned; Z = equal; N the top bit of the wrapped
difference; no register but PC changes. The definition of C, N and Z is general knowledge of the spec (G1, G5; log 17).
-/
def Obligations.Compare : Prop :=
  ∀ (i : Instr) (o : Operand) (s : State), i.operand? = some o →
    ∀ (mn : Mnemonic) (w : Width) (r : Word),
      (mn, w, r) ∈ [(.cmp, s.wA, s.c), (.cpx, s.wX, s.x), (.cpy, s.wX, s.y)] → i.mnemonic = mn →
      let a := (trunc w r).toNat
      let m := (trunc w (o.read w s)).toNat
      CompletesWith i s [.p, .pc] 0x83 [] fun t =>
        t.pc = s.pc + BitVec.ofNat 16 (o.len w) ∧ t.fC = decide (m ≤ a) ∧ t.fZ = decide (a = m) ∧
        t.fN = decide (2 ^ (w.bits - 1) ≤ (2 ^ w.bits + a - m) % 2 ^ w.bits)

/-- BIT (R231): Z of accumulator AND operand; N and V the two top bits of a memory operand, and unchanged for the
immediate form; the accumulator is not changed. Z of the AND is general knowledge of the spec (G6; log 17). -/
def Obligations.BitTest : Prop :=
  ∀ (i : Instr) (o : Operand) (s : State), i.mnemonic = .bit → i.operand? = some o →
    let m := o.read s.wA s
    CompletesWith i s [.p, .pc] 0xC2 [] fun t =>
      t.pc = s.pc + BitVec.ofNat 16 (o.len s.wA) ∧ t.fZ = isZero s.wA (s.c &&& m) ∧
      (∀ v, o = .imm v → t.fN = s.fN ∧ t.fV = s.fV) ∧
      (∀ mode, o = .mem mode → t.fN = msb s.wA m ∧ t.fV = msb2 s.wA m)

/-- INX, INY, DEX, DEY (R234 to R237) and INC, DEC on the accumulator (R232, R233): one more or less, modulo 2^w at the
register's width, N and Z of the result; C and V are not written. N and Z are as 00_scope.md R9 says, from general
knowledge (log 17). -/
def Obligations.CountRegisters : Prop :=
  ∀ s : State,
    let up := fun (w : Width) (r : Word) => ((trunc w r).toNat + 1) % 2 ^ w.bits
    let down := fun (w : Width) (r : Word) => ((trunc w r).toNat + 2 ^ w.bits - 1) % 2 ^ w.bits
    (∀ (i : Instr) (n : Nat), (i, n) ∈ [(.inx, up s.wX s.x), (.dex, down s.wX s.x)] →
      CompletesWith i s [.x, .p, .pc] 0x82 [] fun t =>
        t.pc = s.pc + 1 ∧ t.x.toNat = n ∧ t.fN = msb s.wX t.x ∧ t.fZ = decide (n = 0)) ∧
    (∀ (i : Instr) (n : Nat), (i, n) ∈ [(.iny, up s.wX s.y), (.dey, down s.wX s.y)] →
      CompletesWith i s [.y, .p, .pc] 0x82 [] fun t =>
        t.pc = s.pc + 1 ∧ t.y.toNat = n ∧ t.fN = msb s.wX t.y ∧ t.fZ = decide (n = 0)) ∧
    (∀ (i : Instr) (n : Nat), (i, n) ∈ [(.incAcc, up s.wA s.c), (.decAcc, down s.wA s.c)] →
      CompletesWith i s [.c, .p, .pc] 0x82 [] fun t =>
        t.pc = s.pc + 1 ∧ (trunc s.wA t.c).toNat = n ∧ (s.fM = true → hi t.c = hi s.c) ∧ t.fN = msb s.wA t.c ∧
          t.fZ = decide (n = 0))

/-! ### Shifts and read-modify-write -/

/-- ASL, LSR, ROL, ROR on the accumulator (R241 to R244): result, C the bit shifted out, N and Z of the result; B is
kept at width 8. N and Z are as 00_scope.md R9 says, from general knowledge (log 17). -/
def Obligations.ShiftAccumulator : Prop :=
  ∀ (i : Instr) (s : State), i ∈ [.aslAcc, .lsrAcc, .rolAcc, .rorAcc] →
    ∀ (n : Nat) (c : Bool),
      i.mnemonic.shiftResult s.wA.bits (if s.fC then 1 else 0) (trunc s.wA s.c).toNat = some (n, c) →
      CompletesWith i s [.c, .p, .pc] 0x83 [] fun t =>
        t.pc = s.pc + 1 ∧ (trunc s.wA t.c).toNat = n ∧ (s.fM = true → hi t.c = hi s.c) ∧ t.fC = c ∧
          t.fN = msb s.wA t.c ∧ t.fZ = decide (n = 0)

/-- ASL, LSR, ROL, ROR on memory (R240 to R244): the result is at the operand's address, C the bit shifted out, N and Z
of the result; no register but PC changes. N and Z are as 00_scope.md R9 says, from general knowledge (log 17). -/
def Obligations.ShiftMemory : Prop :=
  ∀ (i : Instr) (m : MemMode) (s : State), i.operand? = some (.mem m) →
    ∀ (n : Nat) (c : Bool),
      i.mnemonic.shiftResult s.wA.bits (if s.fC then 1 else 0) (s.loadLoc .locked s.wA (m.loc s)).toNat =
        some (n, c) →
      CompletesWith i s [.mem, .p, .pc] 0x83 ((m.loc s).bytes s.wA) fun t =>
        t.pc = s.pc + BitVec.ofNat 16 m.len ∧ (t.readLoc s.wA (m.loc s)).toNat = n ∧ t.fC = c ∧
          t.fN = decide (2 ^ (s.wA.bits - 1) ≤ n) ∧ t.fZ = decide (n = 0)

/-- INC and DEC on memory (R232, R233, R240): one more or less at the operand's address, N and Z of the result; C and V
are not written and no register but PC changes. N and Z are as 00_scope.md R9 says, from general knowledge (log 17). -/
def Obligations.CountMemory : Prop :=
  ∀ (i : Instr) (m : MemMode) (s : State), i.operand? = some (.mem m) →
    let w := s.wA
    let v := (s.loadLoc .locked w (m.loc s)).toNat
    ∀ n : Nat, (i.mnemonic = .inc ∧ n = (v + 1) % 2 ^ w.bits) ∨ (i.mnemonic = .dec ∧ n = (v + 2 ^ w.bits - 1) % 2 ^ w.bits) →
      CompletesWith i s [.mem, .p, .pc] 0x82 ((m.loc s).bytes w) fun t =>
        t.pc = s.pc + BitVec.ofNat 16 m.len ∧ (t.readLoc w (m.loc s)).toNat = n ∧
          t.fN = decide (2 ^ (w.bits - 1) ≤ n) ∧ t.fZ = decide (n = 0)

/-- TSB and TRB (R245, R246): Z of accumulator AND memory as read; memory takes M OR A, or M AND NOT A; the accumulator
and the other flags are not changed. TRB's operation and Z are general knowledge of the spec (G8; log 17). -/
def Obligations.TestAndSetResetBits : Prop :=
  ∀ (i : Instr) (m : MemMode) (s : State), i.operand? = some (.mem m) →
    let v := s.loadLoc .locked s.wA (m.loc s)
    ∀ r : Word, (i.mnemonic = .tsb ∧ r = v ||| s.c) ∨ (i.mnemonic = .trb ∧ r = v &&& ~~~s.c) →
      CompletesWith i s [.mem, .p, .pc] 0x02 ((m.loc s).bytes s.wA) fun t =>
        t.pc = s.pc + BitVec.ofNat 16 m.len ∧ t.readLoc s.wA (m.loc s) = trunc s.wA r ∧
          t.fZ = isZero s.wA (s.c &&& v)

/-! ### Transfers -/

/-- TAX, TAY, TSX, TXY, TYX (43_transfer.md R251, R252, R255, R257, R258): the index register takes the 16-bit source at
the width wX, its high byte 00 at width 8. TXA and TYA (R253, R254): C takes the whole index register where P.M = 0, A
its low byte where P.M = 1, B being kept. N and Z at the destination's width; the seven opcodes. N and Z are as
00_scope.md R9 says, from general knowledge (log 17). -/
def Obligations.TransferIndexAccumulator : Prop :=
  (∀ f, [Instr.tax, .tay, .tsx, .txy, .tyx, .txa, .tya].map (encode f) =
    [[0xAA], [0xA8], [0xBA], [0x9B], [0xBB], [0x8A], [0x98]]) ∧
  ∀ s : State,
    let fits := fun (r v : Word) => (s.fX = true → r = word 0x00 (lo v)) ∧ (s.fX = false → r = v)
    (∀ (i : Instr) (v : Word), (i, v) ∈ [(.tax, s.c), (.tsx, s.sp), (.tyx, s.y)] →
      CompletesWith i s [.x, .p, .pc] 0x82 [] fun t =>
        t.pc = s.pc + 1 ∧ fits t.x v ∧ t.fN = msb s.wX v ∧ t.fZ = isZero s.wX v) ∧
    (∀ (i : Instr) (v : Word), (i, v) ∈ [(.tay, s.c), (.txy, s.x)] →
      CompletesWith i s [.y, .p, .pc] 0x82 [] fun t =>
        t.pc = s.pc + 1 ∧ fits t.y v ∧ t.fN = msb s.wX v ∧ t.fZ = isZero s.wX v) ∧
    (∀ (i : Instr) (v : Word), (i, v) ∈ [(.txa, s.x), (.tya, s.y)] →
      CompletesWith i s [.c, .p, .pc] 0x82 [] fun t =>
        t.pc = s.pc + 1 ∧ (s.fM = true → t.c = word (hi s.c) (lo v)) ∧ (s.fM = false → t.c = v) ∧
          t.fN = msb s.wA v ∧ t.fZ = isZero s.wA v)

/-- TXS and TCS (R256, R261): S takes the 16-bit source in native mode; in emulation mode SL takes its low byte and SH is 01; no
flag is written; the two opcodes. -/
def Obligations.TransferToStackPointer : Prop :=
  (∀ f, [Instr.txs, .tcs].map (encode f) = [[0x9A], [0x1B]]) ∧
  ∀ (s : State) (i : Instr) (v : Word), (i, v) ∈ [(.txs, s.x), (.tcs, s.c)] →
    CompletesWith i s [.sp, .pc] 0x00 [] fun t =>
      t.pc = s.pc + 1 ∧ (s.e = false → t.sp = v) ∧ (s.e = true → t.sp = word 0x01 (lo v))

/-- TCD, TDC, TSC (R259, R260, R262): 16-bit transfers whatever P.M is, N and Z on 16 bits; the three opcodes. N and Z
are as 00_scope.md R9 says, from general knowledge (log 17). -/
def Obligations.Transfer16 : Prop :=
  (∀ f, [Instr.tcd, .tdc, .tsc].map (encode f) = [[0x5B], [0x7B], [0x3B]]) ∧
  ∀ s : State,
    (CompletesWith .tcd s [.d, .p, .pc] 0x82 [] fun t =>
      t.pc = s.pc + 1 ∧ t.d = s.c ∧ t.fN = s.c.msb ∧ t.fZ = decide (s.c = 0x0000)) ∧
    (CompletesWith .tdc s [.c, .p, .pc] 0x82 [] fun t =>
      t.pc = s.pc + 1 ∧ t.c = s.d ∧ t.fN = s.d.msb ∧ t.fZ = decide (s.d = 0x0000)) ∧
    (CompletesWith .tsc s [.c, .p, .pc] 0x82 [] fun t =>
      t.pc = s.pc + 1 ∧ t.c = s.sp ∧ t.fN = s.sp.msb ∧ t.fZ = decide (s.sp = 0x0000))

/-- XBA (R264) exchanges A and B, N and Z of the new A on 8 bits. XCE (R263) exchanges E and C; into emulation mode M =
X = 1, SH = 01, XH = YH = 00; out of it nothing else changes. N and Z of XBA are general knowledge and decision D22 of
the spec (log 17). -/
def Obligations.Exchanges : Prop :=
  ∀ s : State,
    (CompletesWith .xba s [.c, .p, .pc] 0x82 [] fun t =>
      t.pc = s.pc + 1 ∧ lo t.c = hi s.c ∧ hi t.c = lo s.c ∧ t.fN = (hi s.c).msb ∧ t.fZ = decide (hi s.c = 0x00)) ∧
    (s.fC = false → CompletesWith .xce s [.e, .p, .pc] 0x01 [] fun t =>
      t.pc = s.pc + 1 ∧ t.e = false ∧ t.fC = s.e) ∧
    (s.fC = true → CompletesWith .xce s [.e, .p, .x, .y, .sp, .pc] 0x31 [] fun t =>
      t.pc = s.pc + 1 ∧ t.e = true ∧ t.fC = s.e ∧ t.fM = true ∧ t.fX = true ∧ t.sp = word 0x01 (lo s.sp) ∧
        t.x = word 0x00 (lo s.x) ∧ t.y = word 0x00 (lo s.y))

/-! ### Stack -/

/-- PHA, PHX, PHY, PHB, PHK, PHP (44_stack.md R271, R272, R274 to R277): one byte, or two with the high byte first where
the register is 16 bits wide, at 00:S and below; in emulation mode inside page 1, where PHP shows bits 5 and 4 as 1.
What PHP shows in emulation mode is the spec's decision D19 (log 17). -/
def Obligations.Pushes : Prop :=
  ∀ s : State,
    let top := bank0 s.sp
    let next := bank0 (spAfterPush s 1)
    (∀ (i : Instr) (w : Width) (v : Word), (i, w, v) ∈ [(.pha, s.wA, s.c), (.phx, s.wX, s.x), (.phy, s.wX, s.y)] →
      (w = .w8 → CompletesWith i s [.sp, .mem, .pc] 0x00 [top] fun t =>
        t.pc = s.pc + 1 ∧ t.sp = spAfterPush s 1 ∧ t.readByte top = lo v) ∧
      (w = .w16 → CompletesWith i s [.sp, .mem, .pc] 0x00 [top, next] fun t =>
        t.pc = s.pc + 1 ∧ t.sp = spAfterPush s 2 ∧ t.readByte top = hi v ∧ t.readByte next = lo v)) ∧
    (∀ (i : Instr) (v : Byte), (i, v) ∈ [(.phb, s.dbr), (.phk, s.pbr), (.php, if s.e then s.p ||| 0x30 else s.p)] →
      CompletesWith i s [.sp, .mem, .pc] 0x00 [top] fun t =>
        t.pc = s.pc + 1 ∧ t.sp = spAfterPush s 1 ∧ t.readByte top = v)

/-- PHD, PEA, PEI, PER (R273, R284 to R286): a 16-bit value, high byte at 00:S, low byte at 00:S-1 with 16-bit arithmetic; S ends
two lower, with SH = 01 in emulation mode. The bytes of the four, and their cycles. -/
def Obligations.PushWords : Prop :=
  (∀ (f : Widths) (aa off : Word) (d : Byte), [Instr.phd, .pea aa, .pei d, .per off].map (encode f) =
    [[0x0B], [0xF4, lo aa, hi aa], [0xD4, d], [0x62, lo off, hi off]]) ∧
  (∀ (s : State) (aa off : Word) (d : Byte), [Instr.phd, .pea aa, .pei d, .per off].map (instrCount · s) =
    [4, 5, if lo s.d = 0x00 then 6 else 7, 6]) ∧
  ∀ (s : State) (i : Instr) (len : Nat) (v : Word),
    (i = .phd ∧ len = 1 ∧ v = s.d) ∨ (i = .pea v ∧ len = 3) ∨
      (∃ d : Byte, i = .pei d ∧ len = 2 ∧
        v = word (s.memRead .data (bank0 (s.d + zext d + 1))) (s.memRead .data (bank0 (s.d + zext d)))) ∨
      (∃ off : Word, i = .per off ∧ len = 3 ∧ v = s.pc + 3 + off) →
    CompletesWith i s [.sp, .mem, .pc] 0x00 [bank0 s.sp, bank0 (s.sp - 1)] fun t =>
      t.pc = s.pc + BitVec.ofNat 16 len ∧ t.readByte (bank0 s.sp) = hi v ∧ t.readByte (bank0 (s.sp - 1)) = lo v ∧
        (s.e = false → t.sp = s.sp - 2) ∧ (s.e = true → t.sp = word 0x01 (lo (s.sp - 2)))

/-- PLA, PLX, PLY, PLB, PLD (R278 to R280, R282, R283): S moves up, then the bytes are read, low byte first; N and Z of
the value pulled; PLD reads beyond page 1 in emulation mode and S ends with SH = 01. N and Z are as 00_scope.md R9 says,
from general knowledge (log 17). -/
def Obligations.Pulls : Prop :=
  ∀ s : State,
    let b1 := s.memRead .data (bank0 (spAfterPull s 1))
    let b2 := s.memRead .data (bank0 (spAfterPull s 2))
    let v := word (s.memRead .data (bank0 (s.sp + 2))) (s.memRead .data (bank0 (s.sp + 1)))
    (s.fM = true → CompletesWith .pla s [.c, .sp, .p, .pc] 0x82 [] fun t =>
      t.pc = s.pc + 1 ∧ t.sp = spAfterPull s 1 ∧ t.c = word (hi s.c) b1 ∧ t.fN = b1.msb ∧ t.fZ = decide (b1 = 0x00)) ∧
    (s.fM = false → CompletesWith .pla s [.c, .sp, .p, .pc] 0x82 [] fun t =>
      t.pc = s.pc + 1 ∧ t.sp = spAfterPull s 2 ∧ t.c = word b2 b1 ∧ t.fN = b2.msb ∧
        t.fZ = decide (word b2 b1 = 0x0000)) ∧
    (∀ (i : Instr) (r : Field) (reg : State → Word), (i, r, reg) = (.plx, .x, State.x) ∨ (i, r, reg) = (.ply, .y, State.y) →
      (s.fX = true → CompletesWith i s [r, .sp, .p, .pc] 0x82 [] fun t =>
        t.pc = s.pc + 1 ∧ t.sp = spAfterPull s 1 ∧ reg t = word 0x00 b1 ∧ t.fN = b1.msb ∧ t.fZ = decide (b1 = 0x00)) ∧
      (s.fX = false → CompletesWith i s [r, .sp, .p, .pc] 0x82 [] fun t =>
        t.pc = s.pc + 1 ∧ t.sp = spAfterPull s 2 ∧ reg t = word b2 b1 ∧ t.fN = b2.msb ∧
          t.fZ = decide (word b2 b1 = 0x0000))) ∧
    (CompletesWith .plb s [.dbr, .sp, .p, .pc] 0x82 [] fun t =>
      t.pc = s.pc + 1 ∧ t.sp = spAfterPull s 1 ∧ t.dbr = b1 ∧ t.fN = b1.msb ∧ t.fZ = decide (b1 = 0x00)) ∧
    (CompletesWith .pld s [.d, .sp, .p, .pc] 0x82 [] fun t =>
      t.pc = s.pc + 1 ∧ t.d = v ∧ t.fN = v.msb ∧ t.fZ = decide (v = 0x0000) ∧
        (s.e = false → t.sp = s.sp + 2) ∧ (s.e = true → t.sp = word 0x01 (lo (s.sp + 2))))

/-! ### Status -/

/-- CLC, CLD, CLI, CLV, SEC, SED, SEI (45_status.md R291 to R297): the one flag, and PC; the seven opcodes. -/
def Obligations.SingleFlags : Prop :=
  (∀ f, [Instr.clc, .cld, .cli, .clv, .sec, .sed, .sei].map (encode f) =
    [[0x18], [0xD8], [0x58], [0xB8], [0x38], [0xF8], [0x78]]) ∧
  ∀ (s : State) (i : Instr) (bit : Nat) (v : Bool),
    (i, bit, v) ∈ [(.clc, 0, false), (.cld, 3, false), (.cli, 2, false), (.clv, 6, false), (.sec, 0, true),
      (.sed, 3, true), (.sei, 2, true)] →
    CompletesWith i s [.p, .pc] (BitVec.ofNat 8 (2 ^ bit)) [] fun t => t.pc = s.pc + 1 ∧ t.p.getLsbD bit = v

/-- REP, SEP and PLP (R290, R298, R299; 44_stack.md R281): P takes the old P without, or with, the bits of the mask, or
the byte pulled; in emulation mode bits 5 and 4 stay 1; where P.X is then 1, XH and YH become 00. Bits 5 and 4, the
clearing of XH and YH, and REP's complement are the spec's decisions D18, D21 and D13 (log 17). -/
def Obligations.WriteStatus : Prop :=
  ∀ (s : State) (i : Instr) (v : Byte) (sp pc : Word),
    (∃ mask : Byte, i = .rep mask ∧ v = s.p &&& ~~~mask ∧ sp = s.sp ∧ pc = s.pc + 2) ∨
      (∃ mask : Byte, i = .sep mask ∧ v = s.p ||| mask ∧ sp = s.sp ∧ pc = s.pc + 2) ∨
      (i = .plp ∧ v = s.memRead .data (bank0 (spAfterPull s 1)) ∧ sp = spAfterPull s 1 ∧ pc = s.pc + 1) →
    CompletesWith i s [.p, .x, .y, .sp, .pc] 0xFF [] fun t =>
      t.pc = pc ∧ t.sp = sp ∧ t.p = (if s.e then v ||| 0x30 else v) ∧
        (t.fX = true → t.x = word 0x00 (lo s.x) ∧ t.y = word 0x00 (lo s.y)) ∧
        (t.fX = false → t.x = s.x ∧ t.y = s.y)

/-! ### Control transfer -/

/-- The nine relative branches and BRL (46_control_transfer.md R300 to R310): the target is the address of the next instruction
plus the signed offset, modulo 2^16, if the condition holds; PBR and the flags are not affected. -/
def Obligations.Branches : Prop :=
  ∀ s : State,
    (∀ (off : Byte) (i : Instr) (cond : Bool),
      (i, cond) ∈ [(.bcc off, !s.fC), (.bcs off, s.fC), (.beq off, s.fZ), (.bmi off, s.fN), (.bne off, !s.fZ),
        (.bpl off, !s.fN), (.bvc off, !s.fV), (.bvs off, s.fV), (.bra off, true)] →
      CompletesWith i s [.pc] 0x00 [] fun t =>
        (cond = true → (t.pc.toNat : Int) = (s.pc.toNat + 2 + off.toInt) % 65536) ∧
        (cond = false → t.pc.toNat = (s.pc.toNat + 2) % 65536)) ∧
    ∀ off : Word, CompletesWith (.brl off) s [.pc] 0x00 [] fun t =>
      (t.pc.toNat : Int) = (s.pc.toNat + 3 + off.toInt) % 65536

/-- The four forms of JMP and JML (R311, R312): where PC and PBR come from. The pointer of `(a)` is in bank 0, that of `(a,x)` in
the program bank, and both wrap inside their bank; no flag is written. The bytes of the five, and their cycles. The wrap of
the `(a,x)` pointer is the spec's decision D20 (31_addressing_modes.md R141) and that of the `(a)` pointer its inference
(R140); log 17. The `(a,x)` pointer is read after the operand bytes, in cycles of their kind (log 1). -/
def Obligations.Jumps : Prop :=
  (∀ (f : Widths) (aa : Word) (al : Addr),
    [Instr.jmpAbs aa, .jmpLong al, .jmpAbsInd aa, .jmpAbsIndX aa, .jml aa].map (encode f) =
      [[0x4C, lo aa, hi aa], [0x5C, lo (al.setWidth 16), hi (al.setWidth 16), al.extractLsb' 16 8],
        [0x6C, lo aa, hi aa], [0x7C, lo aa, hi aa], [0xDC, lo aa, hi aa]]) ∧
  (∀ (s : State) (aa : Word) (al : Addr),
    [Instr.jmpAbs aa, .jmpLong al, .jmpAbsInd aa, .jmpAbsIndX aa, .jml aa].map (instrCount · s) = [3, 4, 5, 6, 6]) ∧
  ∀ (s : State) (aa : Word) (al : Addr),
    (CompletesWith (.jmpAbs aa) s [.pc] 0x00 [] fun t => t.pc = aa) ∧
    (CompletesWith (.jmpLong al) s [.pc, .pbr] 0x00 [] fun t => t.pc = al.setWidth 16 ∧ t.pbr = al.extractLsb' 16 8) ∧
    (CompletesWith (.jmpAbsInd aa) s [.pc] 0x00 [] fun t =>
      t.pc = word (s.memRead .data (bank0 (aa + 1))) (s.memRead .data (bank0 aa))) ∧
    (CompletesWith (.jmpAbsIndX aa) s [.pc] 0x00 [] fun t =>
      let u := s.afterReads .program [addr s.pbr (s.pc + 1), addr s.pbr (s.pc + 2)]
      t.pc = word (u.memRead .program (addr s.pbr (aa + s.x + 1))) (u.memRead .program (addr s.pbr (aa + s.x)))) ∧
    (CompletesWith (.jml aa) s [.pc, .pbr] 0x00 [] fun t =>
      t.pc = word (s.memRead .data (bank0 (aa + 1))) (s.memRead .data (bank0 aa)) ∧ t.pbr = s.memRead .data (bank0 (aa + 2)))

/-- JSR `a`, JSR `(a,x)` and JSL (R313, R314): the address of the call's last byte is pushed high byte first, JSL the
bank before it; then PC, and for JSL PBR, take the target. The last operand byte of JSR `(a,x)` and JSL is read after
the first pushes (20_memory.md R77; log 11). The wrap of the `(a,x)` pointer and of its second byte inside the program bank
is the spec's decision D20 (31_addressing_modes.md R141) and the return address its general knowledge (G12); log 17. The
`(a,x)` pointer is read after the operand bytes, in cycles of their kind (log 1). -/
def Obligations.Calls : Prop :=
  ∀ s : State,
    (∀ aa : Word, CompletesWith (.jsrAbs aa) s [.sp, .mem, .pc] 0x00 [bank0 s.sp, bank0 (spAfterPush s 1)] fun t =>
      t.pc = aa ∧ t.sp = spAfterPush s 2 ∧ t.readByte (bank0 s.sp) = hi (s.pc + 2) ∧
        t.readByte (bank0 (spAfterPush s 1)) = lo (s.pc + 2)) ∧
    (∀ aa : Word, s.fetchByte 2 = hi aa →
      CompletesWith (.jsrAbsIndX aa) s [.sp, .mem, .pc] 0x00 [bank0 s.sp, bank0 (s.sp - 1)] fun t =>
        let p := word (t.memRead .program (addr s.pbr (s.pc + 2))) (lo aa) + s.x
        let u := t.afterReads .program [addr s.pbr (s.pc + 1), addr s.pbr (s.pc + 2)]
        t.pc = word (u.memRead .program (addr s.pbr (p + 1))) (u.memRead .program (addr s.pbr p)) ∧
        t.readByte (bank0 s.sp) = hi (s.pc + 2) ∧ t.readByte (bank0 (s.sp - 1)) = lo (s.pc + 2) ∧
        (s.e = false → t.sp = s.sp - 2) ∧ (s.e = true → t.sp = word 0x01 (lo (s.sp - 2)))) ∧
    (∀ al : Addr, s.fetchByte 3 = al.extractLsb' 16 8 →
      CompletesWith (.jsl al) s [.sp, .mem, .pc, .pbr] 0x00 [bank0 s.sp, bank0 (s.sp - 1), bank0 (s.sp - 2)] fun t =>
        t.pc = al.setWidth 16 ∧
        (t.pbr = if addr s.pbr (s.pc + 3) = bank0 s.sp ∧ answerFor s.pins.answers .program (bank0 s.sp) = none then s.pbr
          else al.extractLsb' 16 8) ∧
        t.readByte (bank0 s.sp) = s.pbr ∧ t.readByte (bank0 (s.sp - 1)) = hi (s.pc + 3) ∧
        t.readByte (bank0 (s.sp - 2)) = lo (s.pc + 3) ∧
        (s.e = false → t.sp = s.sp - 3) ∧ (s.e = true → t.sp = word 0x01 (lo (s.sp - 3))))

/-- RTS and RTL (R315, R316): PC takes the pulled address plus 1, modulo 2^16, and RTL pulls PBR. The 1 added is general
knowledge of the spec (G12; log 17). -/
def Obligations.SubroutineReturns : Prop :=
  ∀ s : State,
    (CompletesWith .rts s [.sp, .pc] 0x00 [] fun t =>
      t.pc = word (s.memRead .data (bank0 (spAfterPull s 2))) (s.memRead .data (bank0 (spAfterPull s 1))) + 1 ∧
        t.sp = spAfterPull s 2) ∧
    (CompletesWith .rtl s [.sp, .pc, .pbr] 0x00 [] fun t =>
      t.pc = word (s.memRead .data (bank0 (s.sp + 2))) (s.memRead .data (bank0 (s.sp + 1))) + 1 ∧
        t.pbr = s.memRead .data (bank0 (s.sp + 3)) ∧
        (s.e = false → t.sp = s.sp + 3) ∧ (s.e = true → t.sp = word 0x01 (lo (s.sp + 3))))

/-- A call and its return (R313 to R316): RTS after JSR `a` comes back to the instruction after the call with S as it
was, and RTL after JSL, in native mode, with PBR too, where the platform answers no data read itself (log 1). The return
address is general knowledge of the spec (G12; log 17). -/
def Obligations.CallThenReturn : Prop :=
  ∀ s : State, PlainData s →
    (∀ aa t, exec (.jsrAbs aa) s = .next t → ∃ u, exec .rts t = .next u ∧ u.pc = s.pc + 3 ∧ u.sp = s.sp ∧ u.pbr = s.pbr) ∧
    (∀ al t, s.e = false → exec (.jsl al) s = .next t →
      ∃ u, exec .rtl t = .next u ∧ u.pc = s.pc + 4 ∧ u.sp = s.sp ∧ u.pbr = s.pbr)

/-! ### Block moves -/

/-- MVN and MVP (47_block_move.md R320 to R322): one pass moves one byte from SBA:X to DBA:Y, DBR takes DBA, X and Y
step up or down at their width, C counts down on 16 bits, and PC moves on exactly when C was 0. C ending at FFFF is
general knowledge of the spec (G13, D8; log 17). -/
def Obligations.BlockMoves : Prop :=
  ∀ (s : State) (dba sba : Byte) (i : Instr) (k : Nat),
    (i = .mvn dba sba ∧ k = 1) ∨ (i = .mvp dba sba ∧ k = 2 ^ s.wX.bits - 1) →
    CompletesWith i s [.c, .x, .y, .dbr, .mem, .pc] 0x00 [addr dba s.y] fun t =>
      t.readByte (addr dba s.y) = s.memRead .data (addr sba s.x) ∧ t.dbr = dba ∧
        t.x.toNat = (s.x.toNat + k) % 2 ^ s.wX.bits ∧ t.y.toNat = (s.y.toNat + k) % 2 ^ s.wX.bits ∧
        t.c = s.c - 1 ∧ t.pc = if s.c = 0x0000 then s.pc + 3 else s.pc

/-! ### Interrupts -/

/-- The interrupt sequence in native mode (60_exceptions.md R410, R411, R402): PBR, PCH, PCL and P at 00:S down to
00:S-3, then D = 0, I = 1, PBR = 00, PC from the vector; nothing else but the latch of the kind changes. COP's native
vector is the spec's inference (log 17). -/
def Obligations.InterruptNative : Prop :=
  ∀ (k : IntKind) (r : Word) (s : State), s.e = false →
    let t := interrupt k r s
    let va : Word := match k with
      | .irq => 0xFFEE
      | .nmi => 0xFFEA
      | .abort => 0xFFE8
      | .brk => 0xFFE6
      | .cop => 0xFFE4
    OnlyChanges [.sp, .mem, .p, .pbr, .pc, .nmiPending, .abortPending] s t ∧ FlagsKept 0x0C s t ∧
      MemoryKept [bank0 s.sp, bank0 (s.sp - 1), bank0 (s.sp - 2), bank0 (s.sp - 3)] s t ∧
      t.readByte (bank0 s.sp) = s.pbr ∧ t.readByte (bank0 (s.sp - 1)) = hi r ∧ t.readByte (bank0 (s.sp - 2)) = lo r ∧
      t.readByte (bank0 (s.sp - 3)) = s.p ∧ t.sp = s.sp - 4 ∧ t.fD = false ∧ t.fI = true ∧ t.pbr = 0x00 ∧
      t.pc = word (t.memRead .vector (bank0 (va + 1))) (t.memRead .vector (bank0 va)) ∧
      t.nmiPending = (s.nmiPending && k != .nmi) ∧ t.abortPending = (s.abortPending && k != .abort)

/-- The interrupt sequence in emulation mode (R410, R411, R402): PCH, PCL and P, with bit 5 = 1 and the break flag in
bit 4, inside page 1; then D = 0, I = 1, PBR = DBR = 00, PC from the vector. COP's break flag and the clearing of DBR
are the spec's decisions D19 and D11 (log 17). -/
def Obligations.InterruptEmulation : Prop :=
  ∀ (k : IntKind) (r : Word) (s : State), s.e = true →
    let t := interrupt k r s
    let va : Word := match k with
      | .irq => 0xFFFE
      | .nmi => 0xFFFA
      | .abort => 0xFFF8
      | .brk => 0xFFFE
      | .cop => 0xFFF4
    let stacked := (s.p &&& 0xCF) ||| (if k = .brk ∨ k = .cop then 0x30 else 0x20)
    OnlyChanges [.sp, .mem, .p, .pbr, .dbr, .pc, .nmiPending, .abortPending] s t ∧ FlagsKept 0x0C s t ∧
      MemoryKept [bank0 s.sp, bank0 (spAfterPush s 1), bank0 (spAfterPush s 2)] s t ∧
      t.readByte (bank0 s.sp) = hi r ∧ t.readByte (bank0 (spAfterPush s 1)) = lo r ∧
      t.readByte (bank0 (spAfterPush s 2)) = stacked ∧ t.sp = spAfterPush s 3 ∧ t.fD = false ∧ t.fI = true ∧
      t.pbr = 0x00 ∧ t.dbr = 0x00 ∧ t.pc = word (t.memRead .vector (bank0 (va + 1))) (t.memRead .vector (bank0 va)) ∧
      t.nmiPending = (s.nmiPending && k != .nmi) ∧ t.abortPending = (s.abortPending && k != .abort)

/-- BRK and COP (48_system.md R330, R331): whatever the signature byte, the interrupt sequence of their kind with return
address PC + 2. The sequence is `InterruptNative` and `InterruptEmulation`. Ignoring the signature is the spec's
decision D25 (log 17). -/
def Obligations.SoftwareInterrupts : Prop :=
  ∀ (s : State) (sig : Byte) (i : Instr) (k : IntKind), (i, k) ∈ [(.brk sig, .brk), (.cop sig, .cop)] →
    exec i s = .next (interrupt k (s.pc + 2) s) ∧
    CompletesWith i s [.sp, .mem, .p, .pbr, .dbr, .pc] 0x0C
      (if s.e then [bank0 s.sp, bank0 (spAfterPush s 1), bank0 (spAfterPush s 2)]
        else [bank0 s.sp, bank0 (s.sp - 1), bank0 (s.sp - 2), bank0 (s.sp - 3)])
      fun t => t.pbr = 0x00 ∧ t.fI = true ∧ t.fD = false

/-- RTI (R332): P is pulled as WriteP writes it, then PC, used as it is, and in native mode PBR; three bytes in
emulation mode, four in native mode. The write of P is the spec's decisions D18 and D21 (log 17). -/
def Obligations.ReturnFromInterrupt : Prop :=
  ∀ s : State,
    let v := s.memRead .data (bank0 (spAfterPull s 1))
    CompletesWith .rti s [.sp, .p, .x, .y, .pc, .pbr] 0xFF [] fun t =>
      t.p = (if s.e then v ||| 0x30 else v) ∧
      (t.fX = true → t.x = word 0x00 (lo s.x) ∧ t.y = word 0x00 (lo s.y)) ∧ (t.fX = false → t.x = s.x ∧ t.y = s.y) ∧
      t.pc = word (s.memRead .data (bank0 (spAfterPull s 3))) (s.memRead .data (bank0 (spAfterPull s 2))) ∧
      (s.e = true → t.pbr = s.pbr ∧ t.sp = spAfterPull s 3) ∧
      (s.e = false → t.pbr = s.memRead .data (bank0 (spAfterPull s 4)) ∧ t.sp = spAfterPull s 4)

/-- An interrupt in native mode and the RTI after it (R410, R425): PC, PBR, P and S are again what was saved, provided
the index registers keep the invariant of R34 (c) and the platform answers no data read itself (log 1). It rests on the write of P, the spec's decisions D18 and D21 (log
17). -/
def Obligations.InterruptThenReturn : Prop :=
  ∀ (k : IntKind) (r : Word) (s : State), s.e = false → ModeInv s → PlainData s →
    ∃ u, exec .rti (interrupt k r s) = .next u ∧ u.pc = r ∧ u.pbr = s.pbr ∧ u.p = s.p ∧ u.sp = s.sp ∧ u.x = s.x ∧
      u.y = s.y

/-- What a running processor does at a boundary (R420, R421): an abort before an NMI before an IRQ with I = 0, each with
the address of the next instruction; `t` is the state with the inputs sampled. The recognition point is the spec's
decision D12 (log 17), one sample per step the model's (log 8). -/
def Obligations.InterruptPriority : Prop :=
  ∀ s : State,
    let t := s.sample.latchNmi
    let seq := fun k => step s = .next { interrupt k t.pc t with mxInvalid := false }
    t.pins.resb = true → t.stopped = false → t.waiting = false → t.pins.resetAfter = none →
      t.pins.abort = false →
      (t.abortPending = true → seq .abort) ∧
      (t.abortPending = false → t.nmiPending = true → seq .nmi) ∧
      (t.abortPending = false → t.nmiPending = false → t.pins.irqb = false → t.fI = false → seq .irq) ∧
      (t.abortPending = false → t.nmiPending = false → t.pins.irqb = true ∨ t.fI = true → boundary s = (t, .run))

/-- NMIB is edge sensitive (R404, 10_state.md R45): a step of a processor that runs sets the latch exactly on a
high-to-low transition or keeps it, and remembers the level. One sample per step is the model's choice (log 8). -/
def Obligations.NmiEdge : Prop :=
  ∀ s : State, s.sample.pins.resb = true → s.stopped = false →
    (boundary s).1.nmiPrev = s.sample.pins.nmib ∧
    ((boundary s).1.nmiPending = true ↔ s.nmiPending = true ∨ (s.nmiPrev = true ∧ s.sample.pins.nmib = false))

/-- An ABORTB pulse during an instruction (R405): every register is as before, the memory is as the instruction left it,
and the next step takes the ABORT interrupt with the address of the aborted opcode, unless a reset or another pulse comes.
It is the spec's decision D10 as the model reads it (log 9). -/
def Obligations.AbortSuppresses : Prop :=
  ∀ s : State, (boundary s).2 = .run → s.waiting = false → s.sample.pins.abort = true →
    ∃ u v, step s = .next u ∧ exec (boundary s).1.fetch (boundary s).1 = .next v ∧ u.mem = v.mem ∧
      OnlyChanges [.mem, .draws, .mxInvalid, .abortPending, .nmiPrev, .nmiPending, .pins, .input] s u ∧
      u.abortPending = true ∧
      let w := u.sample.latchNmi
      (w.pins.resb = true → w.pins.resetAfter = none → w.pins.abort = false →
        step u = .next { interrupt .abort s.pc w with mxInvalid := false })

/-- A reset (10_state.md R60, 70_reset_and_hazards.md R500), in a step that samples RESB low or in whose middle RESB
falls: what it initialises; A, B, XL, YL, SL and N, V, Z, C are free values (log 5). In the first case no byte of memory is
written; in the second the writes the abandoned step had made by then stay made. The last cycles of the step are those
of the conditioning period, with the pins of R60 (E = MX = RWB = VPB = 1, VDA = VPA = 0), and of the sequence; that the
first are two is log 15. The vector is read after the reads the abandoned step had made (log 1). The latches' values are
the spec's decision D9 (log 17); that a reset ends with its step is log 5. -/
def Obligations.ResetStep : Prop :=
  ∀ s : State,
    let d := decideAction s.sample
    (s.sample.pins.resb = false ∨ s.sample.pins.resetAfter ≠ none) → d.2 ≠ .abortDuringAbort → ∃ t, step s = .next t ∧
    t.d = 0x0000 ∧ t.dbr = 0x00 ∧ t.pbr = 0x00 ∧ hi t.sp = 0x01 ∧ hi t.x = 0x00 ∧ hi t.y = 0x00 ∧ t.e = true ∧
    t.fM = true ∧ t.fX = true ∧ t.fI = true ∧ t.fD = false ∧ t.waiting = false ∧ t.stopped = false ∧
    t.nmiPending = false ∧ t.abortPending = false ∧
    (let answers := match s.sample.pins.resetAfter with
      | none => s.sample.pins.answers
      | some n => useCycles s.sample.pins.answers ((actionCycles d.1 d.2).take n)
    t.pc = word (memAnswer answers t.mem .vector 0x00FFFD) (memAnswer answers t.mem .vector 0x00FFFC)) ∧
    t.pins = s.sample.pins ∧
    (t.mem = match s.sample.pins.resetAfter with
      | none => s.sample.mem
      | some n => ((actionCycles d.1 d.2).take n).foldl BusCycle.apply s.sample.mem) ∧
    (∃ cs u, busCycles s = cs ++ conditioningCycles u ++ resetSequence u ∧ t = { resetStep u with pins := t.pins } ∧
      (resetInit u).pinE = true ∧ (∀ phi2High, (resetInit u).pinMX phi2High = true) ∧
      ∀ c ∈ conditioningCycles u, c.rwb = true ∧ c.vda = false ∧ c.vpa = false ∧ c.vpb = true)

/-- A stopped processor (48_system.md R335, 60_exceptions.md R430): while RESB is high a step changes nothing but the
inputs, and memory only where the platform changes it; no edge is latched. That no edge is latched is the spec's inference (log 17). -/
def Obligations.StoppedOnlyReset : Prop :=
  ∀ s : State, s.stopped = true → s.sample.pins.resb = true → s.sample.pins.resetAfter = none →
    ∃ t, step s = .next t ∧ OnlyChanges [.pins, .input, .mem] s t ∧ t.mem = s.sample.mem

/-- Leaving the wait of WAI (R430): without an NMI or a low IRQB the processor goes on waiting and no register changes;
with one, a latched abort is taken first with the address of the WAI opcode, then NMI, then IRQ if I = 0 with the
address after it, and with I = 1 execution just resumes there. The table of R430 is the spec's decision D16 (log 17); PC
- 1 and the pulse in the same sample are log 10. -/
def Obligations.WaitEnds : Prop :=
  ∀ s : State, s.waiting = true → s.stopped = false → s.sample.pins.resb = true → s.sample.pins.resetAfter = none →
    let t := s.sample.latchNmi
    let aborted := t.abortPending || t.pins.abort
    let awake := { t with waiting := false, abortPending := aborted }
    let seq := fun k r => step s = .next { interrupt k r awake with mxInvalid := false }
    (t.nmiPending = false → t.pins.irqb = true → step s = .next { t with abortPending := aborted }) ∧
    (t.nmiPending = true ∨ t.pins.irqb = false → aborted = true → seq .abort (s.pc - 1)) ∧
    (t.nmiPending = true → aborted = false → seq .nmi s.pc) ∧
    (t.nmiPending = false → t.pins.irqb = false → aborted = false → s.fI = false → seq .irq s.pc) ∧
    (t.nmiPending = false → t.pins.irqb = false → aborted = false → s.fI = true → boundary s = (awake, .run))

/-- NOP (48_system.md R333): one byte EA, two cycles, only PC moves on. WDM (R336) is a NOP of two bytes; WAI (R334)
waits unless RDY is forced high; STP (R335) stops. That STP moves PC on is the model's reading (log 18); WAI's wait is
decision D16 (log 17). -/
def Obligations.NoOperationWaitStop : Prop :=
  ∀ s : State,
    ((∀ f, encode f .nop = [0xEA]) ∧ instrCount .nop s = 2 ∧
      CompletesWith .nop s [.pc] 0x00 [] fun t => t.pc = s.pc + 1) ∧
    (∀ b, CompletesWith (.wdm b) s [.pc] 0x00 [] fun t => t.pc = s.pc + 2) ∧
    (CompletesWith .wai s [.pc, .waiting] 0x00 [] fun t => t.pc = s.pc + 1 ∧ t.waiting = !s.pins.rdyForcedHigh) ∧
    (CompletesWith .stp s [.pc, .stopped] 0x00 [] fun t => t.pc = s.pc + 1 ∧ t.stopped = true)

/-! ### The bus -/

/-- The memory after a step is what the step's valid write cycles make of the memory it was given, the platform's changes
included (20_memory.md R79, R82): the bus cycles and the machine tell the same story. Internal cycles being no accesses
is decision D2 of the spec (log 17); what an abort leaves is log 9, and the writes being kept until the platform says
otherwise is log 1. -/
def Obligations.BusWritesExplainMemory : Prop :=
  ∀ s t : State, step s = .next t → t.mem = (busCycles s).foldl BusCycle.apply s.sample.mem

/-- Every valid read cycle of a step shows what the platform answers to a read of its kind, after the reads of the step
before it, and else the byte that memory holds when its turn comes, the step's own earlier writes included (20_memory.md
R77, R82; 65_pins_and_bus.md R467 a). The shape of the platform is the model's (log 1); internal cycles being no accesses is
decision D2 of the spec (log 17). -/
def Obligations.BusReadsSeeMemory : Prop :=
  ∀ s : State, ReadsSeeMemory s.sample.pins.answers s.sample.mem (busCycles s)

/-- The number of cycles of every instruction is the base count of its opcode with the adjustments of 71_bus_cycles.md
R601; an interrupt sequence takes 7 cycles in emulation mode and 8 in native mode, that of a reset 7, after the two of its
conditioning period (log 15). The pages a branch compares are general knowledge (G11) and BRL's count is decision D23
of the spec (log 17). -/
def Obligations.CycleCounts : Prop :=
  (∀ (i : Instr) (s : State), (instrCycles i s).length = instrCount i s) ∧
  (∀ (k : IntKind) (r : Word) (s : State), (interruptCycles k r s).length = if s.e then 7 else 8) ∧
  ∀ s : State, (conditioningCycles s).length = 2 ∧ (resetSequence s).length = 7
end

