-- ==== Sys2Proof/Laws/Bits.lean ====
section
/-! SUPPORT. The laws of bytes, words, addresses and single bits. -/

namespace Sys2Proof.Machine

/-! ### Bytes and words -/

theorem word_toNat (h l : Byte) : (word h l).toNat = h.toNat * 256 + l.toNat := by
  unfold word
  rw [BitVec.toNat_append, Nat.shiftLeft_eq, Nat.mul_comm,
    ← Nat.two_pow_add_eq_or_of_lt (i := 8) (b := l.toNat) (by omega)]

theorem lo_toNat (v : Word) : (lo v).toNat = v.toNat % 256 := by
  unfold lo; simp

theorem hi_toNat (v : Word) : (hi v).toNat = v.toNat / 256 := by
  unfold hi; simp [Nat.shiftRight_eq_div_pow]; omega

@[simp] theorem lo_word (h l : Byte) : lo (word h l) = l := by
  apply BitVec.eq_of_toNat_eq; rw [lo_toNat, word_toNat]; have := l.isLt; omega

@[simp] theorem hi_word (h l : Byte) : hi (word h l) = h := by
  apply BitVec.eq_of_toNat_eq; rw [hi_toNat, word_toNat]; have := l.isLt; omega

@[simp] theorem word_hi_lo (v : Word) : word (hi v) (lo v) = v := by
  apply BitVec.eq_of_toNat_eq; rw [word_toNat, lo_toNat, hi_toNat]; omega

@[simp] theorem zext_toNat (b : Byte) : (zext b).toNat = b.toNat := by
  unfold zext; rw [word_toNat]; simp

theorem word_ext {v w : Word} (h : hi v = hi w) (l : lo v = lo w) : v = w := by
  rw [← word_hi_lo v, ← word_hi_lo w, h, l]

@[simp] theorem word_eq_iff (h l h' l' : Byte) : word h l = word h' l' ↔ h = h' ∧ l = l' := by
  constructor
  · intro e
    exact ⟨by simpa using congrArg hi e, by simpa using congrArg lo e⟩
  · rintro ⟨rfl, rfl⟩; rfl

@[simp] theorem lo_zext (b : Byte) : lo (zext b) = b := lo_word _ _
@[simp] theorem hi_zext (b : Byte) : hi (zext b) = 0 := hi_word _ _

/-! ### Values at a width -/

@[simp] theorem trunc_w8 (v : Word) : trunc .w8 v = zext (lo v) := rfl
@[simp] theorem trunc_w16 (v : Word) : trunc .w16 v = v := rfl

@[simp] theorem lo_trunc (w : Width) (v : Word) : lo (trunc w v) = lo v := by cases w <;> simp

@[simp] theorem trunc_trunc (w : Width) (v : Word) : trunc w (trunc w v) = trunc w v := by cases w <;> simp

theorem getLsbD_lo (v : Word) (i : Nat) : (lo v).getLsbD i = (decide (i < 8) && v.getLsbD i) := by
  unfold lo; simp

theorem getLsbD_hi (v : Word) (i : Nat) : (hi v).getLsbD i = (decide (i < 8) && v.getLsbD (8 + i)) := by
  unfold hi; simp

theorem getLsbD_word (h l : Byte) (i : Nat) :
    (word h l).getLsbD i = if i < 8 then l.getLsbD i else h.getLsbD (i - 8) := by
  unfold word; simp only [BitVec.getLsbD_append]

@[simp] theorem msb_trunc (w : Width) (v : Word) : msb w (trunc w v) = msb w v := by
  cases w
  · simp only [msb, zext, trunc_w8, getLsbD_word, getLsbD_lo]; rfl
  · rfl

@[simp] theorem isZero_trunc (w : Width) (v : Word) : isZero w (trunc w v) = isZero w v := by
  simp [isZero]

@[simp] theorem lo_and (v w : Word) : lo (v &&& w) = lo v &&& lo w := by
  unfold lo; ext i h; simp

@[simp] theorem lo_or (v w : Word) : lo (v ||| w) = lo v ||| lo w := by
  unfold lo; ext i h; simp

@[simp] theorem lo_xor (v w : Word) : lo (v ^^^ w) = lo v ^^^ lo w := by
  unfold lo; ext i h; simp

@[simp] theorem lo_not (v : Word) : lo (~~~v) = ~~~lo v := by
  unfold lo; ext i h; simp; omega

theorem trunc_toNat (w : Width) (v : Word) : (trunc w v).toNat = v.toNat % 2 ^ w.bits := by
  cases w
  · simp [lo_toNat, Width.bits]
  · simp only [trunc_w16, Width.bits]; omega

theorem trunc_lt (w : Width) (v : Word) : (trunc w v).toNat < 2 ^ w.bits := by
  rw [trunc_toNat]; exact Nat.mod_lt _ (Nat.two_pow_pos _)

/-- The top bit at a width, as a comparison. -/
theorem msb_eq_decide (w : Width) (v : Word) : msb w v = decide (2 ^ (w.bits - 1) ≤ (trunc w v).toNat) := by
  cases w
  · have h : msb .w8 v = (lo v).msb := by
      simp only [msb, BitVec.msb_eq_getLsbD_last, getLsbD_lo]; rfl
    rw [h, BitVec.msb_eq_decide]; simp [Width.bits]
  · have h : msb .w16 v = v.msb := by
      simp [msb, BitVec.msb_eq_getLsbD_last]
    rw [h, BitVec.msb_eq_decide]; rfl

theorem isZero_eq_decide (w : Width) (v : Word) : isZero w v = decide ((trunc w v).toNat = 0) := by
  unfold isZero
  rw [Bool.eq_iff_iff]
  simp [← BitVec.toNat_inj]

theorem msb_w16 (v : Word) : msb .w16 v = v.msb := by simp [msb, BitVec.msb_eq_getLsbD_last]

theorem msb_w8 (v : Word) : msb .w8 v = (lo v).msb := by
  simp only [msb, BitVec.msb_eq_getLsbD_last, getLsbD_lo]; rfl

@[simp] theorem msb_word (h l : Byte) : (word h l).msb = h.msb := by
  rw [BitVec.msb_eq_getLsbD_last, getLsbD_word, BitVec.msb_eq_getLsbD_last]; rfl

theorem isZero_w16 (v : Word) : isZero .w16 v = decide (v = 0) := rfl

theorem isZero_w8 (v : Word) : isZero .w8 v = decide (lo v = 0) := by
  simp only [isZero_eq_decide, trunc_w8, zext_toNat, decide_eq_decide]
  exact ⟨fun h => BitVec.eq_of_toNat_eq h, fun h => by rw [h]; rfl⟩

/-! ### Signed offsets -/

/-- A signed number as an unsigned one. -/
theorem toNat_eq_toInt_emod {n : Nat} (v : BitVec n) : (v.toNat : Int) = v.toInt % 2 ^ n := by
  have h : ((2 ^ n : Nat) : Int) = 2 ^ n := by push_cast; rfl
  rw [BitVec.toInt_eq_toNat_bmod, ← h, Int.bmod_emod, ← Int.natCast_emod, Nat.mod_eq_of_lt v.isLt]

theorem sext_toInt (b : Byte) : (sext b).toInt = b.toInt := by
  unfold sext; rw [BitVec.toInt_signExtend_of_le (by omega)]

/-! ### Addresses -/

theorem addr_toNat (b : Byte) (o : Word) : (addr b o).toNat = b.toNat * 65536 + o.toNat := by
  unfold addr
  rw [BitVec.toNat_append, Nat.shiftLeft_eq, Nat.mul_comm,
    ← Nat.two_pow_add_eq_or_of_lt (i := 16) (b := o.toNat) (by omega)]

@[simp] theorem addr_eq_iff (b b' : Byte) (o o' : Word) : addr b o = addr b' o' ↔ b = b' ∧ o = o' := by
  constructor
  · intro h
    have h' := congrArg BitVec.toNat h
    rw [addr_toNat, addr_toNat] at h'
    have := b.isLt; have := b'.isLt; have := o.isLt; have := o'.isLt
    constructor <;> (apply BitVec.eq_of_toNat_eq; omega)
  · rintro ⟨rfl, rfl⟩; rfl

theorem bankOf_toNat (a : Addr) : (bankOf a).toNat = a.toNat / 65536 := by
  unfold bankOf; simp [Nat.shiftRight_eq_div_pow]; omega

theorem offOf_toNat (a : Addr) : (offOf a).toNat = a.toNat % 65536 := by
  unfold offOf; simp

theorem offOf_eq_setWidth (a : Addr) : offOf a = a.setWidth 16 := by
  apply BitVec.eq_of_toNat_eq; rw [offOf_toNat, BitVec.toNat_setWidth]

@[simp] theorem bankOf_addr (b : Byte) (o : Word) : bankOf (addr b o) = b := by
  apply BitVec.eq_of_toNat_eq
  rw [bankOf_toNat, addr_toNat]; have := o.isLt; omega

@[simp] theorem offOf_addr (b : Byte) (o : Word) : offOf (addr b o) = o := by
  apply BitVec.eq_of_toNat_eq
  rw [offOf_toNat, addr_toNat]; have := o.isLt; omega

@[simp] theorem addr_bankOf_offOf (a : Addr) : addr (bankOf a) (offOf a) = a := by
  apply BitVec.eq_of_toNat_eq
  rw [addr_toNat, bankOf_toNat, offOf_toNat]; omega

/-- The next address is another address, for each successor function (00_scope.md R8). -/
theorem succ_ne (k : Succ) (a : Addr) : k.apply a ≠ a := by
  intro h
  cases k
  · simp [Succ.apply, inc24] at h
  · simp only [Succ.apply, incBank] at h
    have := congrArg offOf h
    simp at this
  · simp only [Succ.apply, incPage] at h
    have := congrArg (fun x => lo (offOf x)) h
    simp at this

theorem a1_ne_a0 (l : Loc) : l.a1 ≠ l.a0 := succ_ne _ _

/-! ### Single bits of P -/

theorem setBit_getLsbD (b : Byte) (i j : Nat) (v : Bool) (hj : j < 8) :
    (setBit b i v).getLsbD j = if j = i then v else b.getLsbD j := by
  unfold setBit
  by_cases h : j = i
  · subst h
    cases v <;> simp [hj]
  · cases v <;> (simp [h, hj]; try omega)

end Sys2Proof.Machine
end

