-- ==== Sys2Proof/Laws/State.lean ====
section
/-! SUPPORT. The field lemmas of State: what each update leaves as it was, one lemma per field per update. -/

namespace Sys2Proof.Machine

/-! ### setFlag: writes p -/

@[simp] theorem setFlag_c (s : State) (i : Nat) (v : Bool) : (s.setFlag i v).c = s.c := rfl
@[simp] theorem setFlag_x (s : State) (i : Nat) (v : Bool) : (s.setFlag i v).x = s.x := rfl
@[simp] theorem setFlag_y (s : State) (i : Nat) (v : Bool) : (s.setFlag i v).y = s.y := rfl
@[simp] theorem setFlag_sp (s : State) (i : Nat) (v : Bool) : (s.setFlag i v).sp = s.sp := rfl
@[simp] theorem setFlag_d (s : State) (i : Nat) (v : Bool) : (s.setFlag i v).d = s.d := rfl
@[simp] theorem setFlag_dbr (s : State) (i : Nat) (v : Bool) : (s.setFlag i v).dbr = s.dbr := rfl
@[simp] theorem setFlag_pbr (s : State) (i : Nat) (v : Bool) : (s.setFlag i v).pbr = s.pbr := rfl
@[simp] theorem setFlag_pc (s : State) (i : Nat) (v : Bool) : (s.setFlag i v).pc = s.pc := rfl
@[simp] theorem setFlag_e (s : State) (i : Nat) (v : Bool) : (s.setFlag i v).e = s.e := rfl
@[simp] theorem setFlag_mem (s : State) (i : Nat) (v : Bool) : (s.setFlag i v).mem = s.mem := rfl
@[simp] theorem setFlag_nmiPending (s : State) (i : Nat) (v : Bool) : (s.setFlag i v).nmiPending = s.nmiPending := rfl
@[simp] theorem setFlag_nmiPrev (s : State) (i : Nat) (v : Bool) : (s.setFlag i v).nmiPrev = s.nmiPrev := rfl
@[simp] theorem setFlag_abortPending (s : State) (i : Nat) (v : Bool) : (s.setFlag i v).abortPending = s.abortPending := rfl
@[simp] theorem setFlag_waiting (s : State) (i : Nat) (v : Bool) : (s.setFlag i v).waiting = s.waiting := rfl
@[simp] theorem setFlag_stopped (s : State) (i : Nat) (v : Bool) : (s.setFlag i v).stopped = s.stopped := rfl
@[simp] theorem setFlag_pins (s : State) (i : Nat) (v : Bool) : (s.setFlag i v).pins = s.pins := rfl
@[simp] theorem setFlag_input (s : State) (i : Nat) (v : Bool) : (s.setFlag i v).input = s.input := rfl
@[simp] theorem setFlag_mxInvalid (s : State) (i : Nat) (v : Bool) : (s.setFlag i v).mxInvalid = s.mxInvalid := rfl
@[simp] theorem setFlag_draws (s : State) (i : Nat) (v : Bool) : (s.setFlag i v).draws = s.draws := rfl
@[simp] theorem setFlag_readByte (s : State) (i : Nat) (v : Bool) (a : Addr) : (s.setFlag i v).readByte a = s.readByte a := by
  simp [State.readByte]
@[simp] theorem setFlag_memRead (s : State) (i : Nat) (v : Bool) (kind : CycleKind) (a : Addr) : (s.setFlag i v).memRead kind a = s.memRead kind a := by
  simp [State.memRead]

/-! ### setN: writes p -/

@[simp] theorem setN_c (s : State) (v : Bool) : (s.setN v).c = s.c := rfl
@[simp] theorem setN_x (s : State) (v : Bool) : (s.setN v).x = s.x := rfl
@[simp] theorem setN_y (s : State) (v : Bool) : (s.setN v).y = s.y := rfl
@[simp] theorem setN_sp (s : State) (v : Bool) : (s.setN v).sp = s.sp := rfl
@[simp] theorem setN_d (s : State) (v : Bool) : (s.setN v).d = s.d := rfl
@[simp] theorem setN_dbr (s : State) (v : Bool) : (s.setN v).dbr = s.dbr := rfl
@[simp] theorem setN_pbr (s : State) (v : Bool) : (s.setN v).pbr = s.pbr := rfl
@[simp] theorem setN_pc (s : State) (v : Bool) : (s.setN v).pc = s.pc := rfl
@[simp] theorem setN_e (s : State) (v : Bool) : (s.setN v).e = s.e := rfl
@[simp] theorem setN_mem (s : State) (v : Bool) : (s.setN v).mem = s.mem := rfl
@[simp] theorem setN_nmiPending (s : State) (v : Bool) : (s.setN v).nmiPending = s.nmiPending := rfl
@[simp] theorem setN_nmiPrev (s : State) (v : Bool) : (s.setN v).nmiPrev = s.nmiPrev := rfl
@[simp] theorem setN_abortPending (s : State) (v : Bool) : (s.setN v).abortPending = s.abortPending := rfl
@[simp] theorem setN_waiting (s : State) (v : Bool) : (s.setN v).waiting = s.waiting := rfl
@[simp] theorem setN_stopped (s : State) (v : Bool) : (s.setN v).stopped = s.stopped := rfl
@[simp] theorem setN_pins (s : State) (v : Bool) : (s.setN v).pins = s.pins := rfl
@[simp] theorem setN_input (s : State) (v : Bool) : (s.setN v).input = s.input := rfl
@[simp] theorem setN_mxInvalid (s : State) (v : Bool) : (s.setN v).mxInvalid = s.mxInvalid := rfl
@[simp] theorem setN_draws (s : State) (v : Bool) : (s.setN v).draws = s.draws := rfl
@[simp] theorem setN_readByte (s : State) (v : Bool) (a : Addr) : (s.setN v).readByte a = s.readByte a := by
  simp [State.readByte]
@[simp] theorem setN_memRead (s : State) (v : Bool) (kind : CycleKind) (a : Addr) : (s.setN v).memRead kind a = s.memRead kind a := by
  simp [State.memRead]

/-! ### setV: writes p -/

@[simp] theorem setV_c (s : State) (v : Bool) : (s.setV v).c = s.c := rfl
@[simp] theorem setV_x (s : State) (v : Bool) : (s.setV v).x = s.x := rfl
@[simp] theorem setV_y (s : State) (v : Bool) : (s.setV v).y = s.y := rfl
@[simp] theorem setV_sp (s : State) (v : Bool) : (s.setV v).sp = s.sp := rfl
@[simp] theorem setV_d (s : State) (v : Bool) : (s.setV v).d = s.d := rfl
@[simp] theorem setV_dbr (s : State) (v : Bool) : (s.setV v).dbr = s.dbr := rfl
@[simp] theorem setV_pbr (s : State) (v : Bool) : (s.setV v).pbr = s.pbr := rfl
@[simp] theorem setV_pc (s : State) (v : Bool) : (s.setV v).pc = s.pc := rfl
@[simp] theorem setV_e (s : State) (v : Bool) : (s.setV v).e = s.e := rfl
@[simp] theorem setV_mem (s : State) (v : Bool) : (s.setV v).mem = s.mem := rfl
@[simp] theorem setV_nmiPending (s : State) (v : Bool) : (s.setV v).nmiPending = s.nmiPending := rfl
@[simp] theorem setV_nmiPrev (s : State) (v : Bool) : (s.setV v).nmiPrev = s.nmiPrev := rfl
@[simp] theorem setV_abortPending (s : State) (v : Bool) : (s.setV v).abortPending = s.abortPending := rfl
@[simp] theorem setV_waiting (s : State) (v : Bool) : (s.setV v).waiting = s.waiting := rfl
@[simp] theorem setV_stopped (s : State) (v : Bool) : (s.setV v).stopped = s.stopped := rfl
@[simp] theorem setV_pins (s : State) (v : Bool) : (s.setV v).pins = s.pins := rfl
@[simp] theorem setV_input (s : State) (v : Bool) : (s.setV v).input = s.input := rfl
@[simp] theorem setV_mxInvalid (s : State) (v : Bool) : (s.setV v).mxInvalid = s.mxInvalid := rfl
@[simp] theorem setV_draws (s : State) (v : Bool) : (s.setV v).draws = s.draws := rfl
@[simp] theorem setV_readByte (s : State) (v : Bool) (a : Addr) : (s.setV v).readByte a = s.readByte a := by
  simp [State.readByte]
@[simp] theorem setV_memRead (s : State) (v : Bool) (kind : CycleKind) (a : Addr) : (s.setV v).memRead kind a = s.memRead kind a := by
  simp [State.memRead]

/-! ### setD: writes p -/

@[simp] theorem setD_c (s : State) (v : Bool) : (s.setD v).c = s.c := rfl
@[simp] theorem setD_x (s : State) (v : Bool) : (s.setD v).x = s.x := rfl
@[simp] theorem setD_y (s : State) (v : Bool) : (s.setD v).y = s.y := rfl
@[simp] theorem setD_sp (s : State) (v : Bool) : (s.setD v).sp = s.sp := rfl
@[simp] theorem setD_d (s : State) (v : Bool) : (s.setD v).d = s.d := rfl
@[simp] theorem setD_dbr (s : State) (v : Bool) : (s.setD v).dbr = s.dbr := rfl
@[simp] theorem setD_pbr (s : State) (v : Bool) : (s.setD v).pbr = s.pbr := rfl
@[simp] theorem setD_pc (s : State) (v : Bool) : (s.setD v).pc = s.pc := rfl
@[simp] theorem setD_e (s : State) (v : Bool) : (s.setD v).e = s.e := rfl
@[simp] theorem setD_mem (s : State) (v : Bool) : (s.setD v).mem = s.mem := rfl
@[simp] theorem setD_nmiPending (s : State) (v : Bool) : (s.setD v).nmiPending = s.nmiPending := rfl
@[simp] theorem setD_nmiPrev (s : State) (v : Bool) : (s.setD v).nmiPrev = s.nmiPrev := rfl
@[simp] theorem setD_abortPending (s : State) (v : Bool) : (s.setD v).abortPending = s.abortPending := rfl
@[simp] theorem setD_waiting (s : State) (v : Bool) : (s.setD v).waiting = s.waiting := rfl
@[simp] theorem setD_stopped (s : State) (v : Bool) : (s.setD v).stopped = s.stopped := rfl
@[simp] theorem setD_pins (s : State) (v : Bool) : (s.setD v).pins = s.pins := rfl
@[simp] theorem setD_input (s : State) (v : Bool) : (s.setD v).input = s.input := rfl
@[simp] theorem setD_mxInvalid (s : State) (v : Bool) : (s.setD v).mxInvalid = s.mxInvalid := rfl
@[simp] theorem setD_draws (s : State) (v : Bool) : (s.setD v).draws = s.draws := rfl
@[simp] theorem setD_readByte (s : State) (v : Bool) (a : Addr) : (s.setD v).readByte a = s.readByte a := by
  simp [State.readByte]
@[simp] theorem setD_memRead (s : State) (v : Bool) (kind : CycleKind) (a : Addr) : (s.setD v).memRead kind a = s.memRead kind a := by
  simp [State.memRead]

/-! ### setI: writes p -/

@[simp] theorem setI_c (s : State) (v : Bool) : (s.setI v).c = s.c := rfl
@[simp] theorem setI_x (s : State) (v : Bool) : (s.setI v).x = s.x := rfl
@[simp] theorem setI_y (s : State) (v : Bool) : (s.setI v).y = s.y := rfl
@[simp] theorem setI_sp (s : State) (v : Bool) : (s.setI v).sp = s.sp := rfl
@[simp] theorem setI_d (s : State) (v : Bool) : (s.setI v).d = s.d := rfl
@[simp] theorem setI_dbr (s : State) (v : Bool) : (s.setI v).dbr = s.dbr := rfl
@[simp] theorem setI_pbr (s : State) (v : Bool) : (s.setI v).pbr = s.pbr := rfl
@[simp] theorem setI_pc (s : State) (v : Bool) : (s.setI v).pc = s.pc := rfl
@[simp] theorem setI_e (s : State) (v : Bool) : (s.setI v).e = s.e := rfl
@[simp] theorem setI_mem (s : State) (v : Bool) : (s.setI v).mem = s.mem := rfl
@[simp] theorem setI_nmiPending (s : State) (v : Bool) : (s.setI v).nmiPending = s.nmiPending := rfl
@[simp] theorem setI_nmiPrev (s : State) (v : Bool) : (s.setI v).nmiPrev = s.nmiPrev := rfl
@[simp] theorem setI_abortPending (s : State) (v : Bool) : (s.setI v).abortPending = s.abortPending := rfl
@[simp] theorem setI_waiting (s : State) (v : Bool) : (s.setI v).waiting = s.waiting := rfl
@[simp] theorem setI_stopped (s : State) (v : Bool) : (s.setI v).stopped = s.stopped := rfl
@[simp] theorem setI_pins (s : State) (v : Bool) : (s.setI v).pins = s.pins := rfl
@[simp] theorem setI_input (s : State) (v : Bool) : (s.setI v).input = s.input := rfl
@[simp] theorem setI_mxInvalid (s : State) (v : Bool) : (s.setI v).mxInvalid = s.mxInvalid := rfl
@[simp] theorem setI_draws (s : State) (v : Bool) : (s.setI v).draws = s.draws := rfl
@[simp] theorem setI_readByte (s : State) (v : Bool) (a : Addr) : (s.setI v).readByte a = s.readByte a := by
  simp [State.readByte]
@[simp] theorem setI_memRead (s : State) (v : Bool) (kind : CycleKind) (a : Addr) : (s.setI v).memRead kind a = s.memRead kind a := by
  simp [State.memRead]

/-! ### setZ: writes p -/

@[simp] theorem setZ_c (s : State) (v : Bool) : (s.setZ v).c = s.c := rfl
@[simp] theorem setZ_x (s : State) (v : Bool) : (s.setZ v).x = s.x := rfl
@[simp] theorem setZ_y (s : State) (v : Bool) : (s.setZ v).y = s.y := rfl
@[simp] theorem setZ_sp (s : State) (v : Bool) : (s.setZ v).sp = s.sp := rfl
@[simp] theorem setZ_d (s : State) (v : Bool) : (s.setZ v).d = s.d := rfl
@[simp] theorem setZ_dbr (s : State) (v : Bool) : (s.setZ v).dbr = s.dbr := rfl
@[simp] theorem setZ_pbr (s : State) (v : Bool) : (s.setZ v).pbr = s.pbr := rfl
@[simp] theorem setZ_pc (s : State) (v : Bool) : (s.setZ v).pc = s.pc := rfl
@[simp] theorem setZ_e (s : State) (v : Bool) : (s.setZ v).e = s.e := rfl
@[simp] theorem setZ_mem (s : State) (v : Bool) : (s.setZ v).mem = s.mem := rfl
@[simp] theorem setZ_nmiPending (s : State) (v : Bool) : (s.setZ v).nmiPending = s.nmiPending := rfl
@[simp] theorem setZ_nmiPrev (s : State) (v : Bool) : (s.setZ v).nmiPrev = s.nmiPrev := rfl
@[simp] theorem setZ_abortPending (s : State) (v : Bool) : (s.setZ v).abortPending = s.abortPending := rfl
@[simp] theorem setZ_waiting (s : State) (v : Bool) : (s.setZ v).waiting = s.waiting := rfl
@[simp] theorem setZ_stopped (s : State) (v : Bool) : (s.setZ v).stopped = s.stopped := rfl
@[simp] theorem setZ_pins (s : State) (v : Bool) : (s.setZ v).pins = s.pins := rfl
@[simp] theorem setZ_input (s : State) (v : Bool) : (s.setZ v).input = s.input := rfl
@[simp] theorem setZ_mxInvalid (s : State) (v : Bool) : (s.setZ v).mxInvalid = s.mxInvalid := rfl
@[simp] theorem setZ_draws (s : State) (v : Bool) : (s.setZ v).draws = s.draws := rfl
@[simp] theorem setZ_readByte (s : State) (v : Bool) (a : Addr) : (s.setZ v).readByte a = s.readByte a := by
  simp [State.readByte]
@[simp] theorem setZ_memRead (s : State) (v : Bool) (kind : CycleKind) (a : Addr) : (s.setZ v).memRead kind a = s.memRead kind a := by
  simp [State.memRead]

/-! ### setC: writes p -/

@[simp] theorem setC_c (s : State) (v : Bool) : (s.setC v).c = s.c := rfl
@[simp] theorem setC_x (s : State) (v : Bool) : (s.setC v).x = s.x := rfl
@[simp] theorem setC_y (s : State) (v : Bool) : (s.setC v).y = s.y := rfl
@[simp] theorem setC_sp (s : State) (v : Bool) : (s.setC v).sp = s.sp := rfl
@[simp] theorem setC_d (s : State) (v : Bool) : (s.setC v).d = s.d := rfl
@[simp] theorem setC_dbr (s : State) (v : Bool) : (s.setC v).dbr = s.dbr := rfl
@[simp] theorem setC_pbr (s : State) (v : Bool) : (s.setC v).pbr = s.pbr := rfl
@[simp] theorem setC_pc (s : State) (v : Bool) : (s.setC v).pc = s.pc := rfl
@[simp] theorem setC_e (s : State) (v : Bool) : (s.setC v).e = s.e := rfl
@[simp] theorem setC_mem (s : State) (v : Bool) : (s.setC v).mem = s.mem := rfl
@[simp] theorem setC_nmiPending (s : State) (v : Bool) : (s.setC v).nmiPending = s.nmiPending := rfl
@[simp] theorem setC_nmiPrev (s : State) (v : Bool) : (s.setC v).nmiPrev = s.nmiPrev := rfl
@[simp] theorem setC_abortPending (s : State) (v : Bool) : (s.setC v).abortPending = s.abortPending := rfl
@[simp] theorem setC_waiting (s : State) (v : Bool) : (s.setC v).waiting = s.waiting := rfl
@[simp] theorem setC_stopped (s : State) (v : Bool) : (s.setC v).stopped = s.stopped := rfl
@[simp] theorem setC_pins (s : State) (v : Bool) : (s.setC v).pins = s.pins := rfl
@[simp] theorem setC_input (s : State) (v : Bool) : (s.setC v).input = s.input := rfl
@[simp] theorem setC_mxInvalid (s : State) (v : Bool) : (s.setC v).mxInvalid = s.mxInvalid := rfl
@[simp] theorem setC_draws (s : State) (v : Bool) : (s.setC v).draws = s.draws := rfl
@[simp] theorem setC_readByte (s : State) (v : Bool) (a : Addr) : (s.setC v).readByte a = s.readByte a := by
  simp [State.readByte]
@[simp] theorem setC_memRead (s : State) (v : Bool) (kind : CycleKind) (a : Addr) : (s.setC v).memRead kind a = s.memRead kind a := by
  simp [State.memRead]

/-! ### setNZ: writes p -/

@[simp] theorem setNZ_c (s : State) (w : Width) (v : Word) : (s.setNZ w v).c = s.c := rfl
@[simp] theorem setNZ_x (s : State) (w : Width) (v : Word) : (s.setNZ w v).x = s.x := rfl
@[simp] theorem setNZ_y (s : State) (w : Width) (v : Word) : (s.setNZ w v).y = s.y := rfl
@[simp] theorem setNZ_sp (s : State) (w : Width) (v : Word) : (s.setNZ w v).sp = s.sp := rfl
@[simp] theorem setNZ_d (s : State) (w : Width) (v : Word) : (s.setNZ w v).d = s.d := rfl
@[simp] theorem setNZ_dbr (s : State) (w : Width) (v : Word) : (s.setNZ w v).dbr = s.dbr := rfl
@[simp] theorem setNZ_pbr (s : State) (w : Width) (v : Word) : (s.setNZ w v).pbr = s.pbr := rfl
@[simp] theorem setNZ_pc (s : State) (w : Width) (v : Word) : (s.setNZ w v).pc = s.pc := rfl
@[simp] theorem setNZ_e (s : State) (w : Width) (v : Word) : (s.setNZ w v).e = s.e := rfl
@[simp] theorem setNZ_mem (s : State) (w : Width) (v : Word) : (s.setNZ w v).mem = s.mem := rfl
@[simp] theorem setNZ_nmiPending (s : State) (w : Width) (v : Word) : (s.setNZ w v).nmiPending = s.nmiPending := rfl
@[simp] theorem setNZ_nmiPrev (s : State) (w : Width) (v : Word) : (s.setNZ w v).nmiPrev = s.nmiPrev := rfl
@[simp] theorem setNZ_abortPending (s : State) (w : Width) (v : Word) : (s.setNZ w v).abortPending = s.abortPending := rfl
@[simp] theorem setNZ_waiting (s : State) (w : Width) (v : Word) : (s.setNZ w v).waiting = s.waiting := rfl
@[simp] theorem setNZ_stopped (s : State) (w : Width) (v : Word) : (s.setNZ w v).stopped = s.stopped := rfl
@[simp] theorem setNZ_pins (s : State) (w : Width) (v : Word) : (s.setNZ w v).pins = s.pins := rfl
@[simp] theorem setNZ_input (s : State) (w : Width) (v : Word) : (s.setNZ w v).input = s.input := rfl
@[simp] theorem setNZ_mxInvalid (s : State) (w : Width) (v : Word) : (s.setNZ w v).mxInvalid = s.mxInvalid := rfl
@[simp] theorem setNZ_draws (s : State) (w : Width) (v : Word) : (s.setNZ w v).draws = s.draws := rfl
@[simp] theorem setNZ_readByte (s : State) (w : Width) (v : Word) (a : Addr) : (s.setNZ w v).readByte a = s.readByte a := by
  simp [State.readByte]
@[simp] theorem setNZ_memRead (s : State) (w : Width) (v : Word) (kind : CycleKind) (a : Addr) : (s.setNZ w v).memRead kind a = s.memRead kind a := by
  simp [State.memRead]

/-! ### advance: writes pc -/

@[simp] theorem advance_c (s : State) (n : Nat) : (s.advance n).c = s.c := rfl
@[simp] theorem advance_x (s : State) (n : Nat) : (s.advance n).x = s.x := rfl
@[simp] theorem advance_y (s : State) (n : Nat) : (s.advance n).y = s.y := rfl
@[simp] theorem advance_sp (s : State) (n : Nat) : (s.advance n).sp = s.sp := rfl
@[simp] theorem advance_d (s : State) (n : Nat) : (s.advance n).d = s.d := rfl
@[simp] theorem advance_dbr (s : State) (n : Nat) : (s.advance n).dbr = s.dbr := rfl
@[simp] theorem advance_pbr (s : State) (n : Nat) : (s.advance n).pbr = s.pbr := rfl
@[simp] theorem advance_p (s : State) (n : Nat) : (s.advance n).p = s.p := rfl
@[simp] theorem advance_e (s : State) (n : Nat) : (s.advance n).e = s.e := rfl
@[simp] theorem advance_mem (s : State) (n : Nat) : (s.advance n).mem = s.mem := rfl
@[simp] theorem advance_nmiPending (s : State) (n : Nat) : (s.advance n).nmiPending = s.nmiPending := rfl
@[simp] theorem advance_nmiPrev (s : State) (n : Nat) : (s.advance n).nmiPrev = s.nmiPrev := rfl
@[simp] theorem advance_abortPending (s : State) (n : Nat) : (s.advance n).abortPending = s.abortPending := rfl
@[simp] theorem advance_waiting (s : State) (n : Nat) : (s.advance n).waiting = s.waiting := rfl
@[simp] theorem advance_stopped (s : State) (n : Nat) : (s.advance n).stopped = s.stopped := rfl
@[simp] theorem advance_pins (s : State) (n : Nat) : (s.advance n).pins = s.pins := rfl
@[simp] theorem advance_input (s : State) (n : Nat) : (s.advance n).input = s.input := rfl
@[simp] theorem advance_mxInvalid (s : State) (n : Nat) : (s.advance n).mxInvalid = s.mxInvalid := rfl
@[simp] theorem advance_draws (s : State) (n : Nat) : (s.advance n).draws = s.draws := rfl
@[simp] theorem advance_readByte (s : State) (n : Nat) (a : Addr) : (s.advance n).readByte a = s.readByte a := by
  simp [State.readByte]
@[simp] theorem advance_memRead (s : State) (n : Nat) (kind : CycleKind) (a : Addr) : (s.advance n).memRead kind a = s.memRead kind a := by
  simp [State.memRead]

/-! ### jump: writes pc -/

@[simp] theorem jump_c (s : State) (v : Word) : (s.jump v).c = s.c := rfl
@[simp] theorem jump_x (s : State) (v : Word) : (s.jump v).x = s.x := rfl
@[simp] theorem jump_y (s : State) (v : Word) : (s.jump v).y = s.y := rfl
@[simp] theorem jump_sp (s : State) (v : Word) : (s.jump v).sp = s.sp := rfl
@[simp] theorem jump_d (s : State) (v : Word) : (s.jump v).d = s.d := rfl
@[simp] theorem jump_dbr (s : State) (v : Word) : (s.jump v).dbr = s.dbr := rfl
@[simp] theorem jump_pbr (s : State) (v : Word) : (s.jump v).pbr = s.pbr := rfl
@[simp] theorem jump_p (s : State) (v : Word) : (s.jump v).p = s.p := rfl
@[simp] theorem jump_e (s : State) (v : Word) : (s.jump v).e = s.e := rfl
@[simp] theorem jump_mem (s : State) (v : Word) : (s.jump v).mem = s.mem := rfl
@[simp] theorem jump_nmiPending (s : State) (v : Word) : (s.jump v).nmiPending = s.nmiPending := rfl
@[simp] theorem jump_nmiPrev (s : State) (v : Word) : (s.jump v).nmiPrev = s.nmiPrev := rfl
@[simp] theorem jump_abortPending (s : State) (v : Word) : (s.jump v).abortPending = s.abortPending := rfl
@[simp] theorem jump_waiting (s : State) (v : Word) : (s.jump v).waiting = s.waiting := rfl
@[simp] theorem jump_stopped (s : State) (v : Word) : (s.jump v).stopped = s.stopped := rfl
@[simp] theorem jump_pins (s : State) (v : Word) : (s.jump v).pins = s.pins := rfl
@[simp] theorem jump_input (s : State) (v : Word) : (s.jump v).input = s.input := rfl
@[simp] theorem jump_mxInvalid (s : State) (v : Word) : (s.jump v).mxInvalid = s.mxInvalid := rfl
@[simp] theorem jump_draws (s : State) (v : Word) : (s.jump v).draws = s.draws := rfl
@[simp] theorem jump_readByte (s : State) (v : Word) (a : Addr) : (s.jump v).readByte a = s.readByte a := by
  simp [State.readByte]
@[simp] theorem jump_memRead (s : State) (v : Word) (kind : CycleKind) (a : Addr) : (s.jump v).memRead kind a = s.memRead kind a := by
  simp [State.memRead]

/-! ### setPbr: writes pbr -/

@[simp] theorem setPbr_c (s : State) (v : Byte) : (s.setPbr v).c = s.c := rfl
@[simp] theorem setPbr_x (s : State) (v : Byte) : (s.setPbr v).x = s.x := rfl
@[simp] theorem setPbr_y (s : State) (v : Byte) : (s.setPbr v).y = s.y := rfl
@[simp] theorem setPbr_sp (s : State) (v : Byte) : (s.setPbr v).sp = s.sp := rfl
@[simp] theorem setPbr_d (s : State) (v : Byte) : (s.setPbr v).d = s.d := rfl
@[simp] theorem setPbr_dbr (s : State) (v : Byte) : (s.setPbr v).dbr = s.dbr := rfl
@[simp] theorem setPbr_pc (s : State) (v : Byte) : (s.setPbr v).pc = s.pc := rfl
@[simp] theorem setPbr_p (s : State) (v : Byte) : (s.setPbr v).p = s.p := rfl
@[simp] theorem setPbr_e (s : State) (v : Byte) : (s.setPbr v).e = s.e := rfl
@[simp] theorem setPbr_mem (s : State) (v : Byte) : (s.setPbr v).mem = s.mem := rfl
@[simp] theorem setPbr_nmiPending (s : State) (v : Byte) : (s.setPbr v).nmiPending = s.nmiPending := rfl
@[simp] theorem setPbr_nmiPrev (s : State) (v : Byte) : (s.setPbr v).nmiPrev = s.nmiPrev := rfl
@[simp] theorem setPbr_abortPending (s : State) (v : Byte) : (s.setPbr v).abortPending = s.abortPending := rfl
@[simp] theorem setPbr_waiting (s : State) (v : Byte) : (s.setPbr v).waiting = s.waiting := rfl
@[simp] theorem setPbr_stopped (s : State) (v : Byte) : (s.setPbr v).stopped = s.stopped := rfl
@[simp] theorem setPbr_pins (s : State) (v : Byte) : (s.setPbr v).pins = s.pins := rfl
@[simp] theorem setPbr_input (s : State) (v : Byte) : (s.setPbr v).input = s.input := rfl
@[simp] theorem setPbr_mxInvalid (s : State) (v : Byte) : (s.setPbr v).mxInvalid = s.mxInvalid := rfl
@[simp] theorem setPbr_draws (s : State) (v : Byte) : (s.setPbr v).draws = s.draws := rfl
@[simp] theorem setPbr_readByte (s : State) (v : Byte) (a : Addr) : (s.setPbr v).readByte a = s.readByte a := by
  simp [State.readByte]
@[simp] theorem setPbr_memRead (s : State) (v : Byte) (kind : CycleKind) (a : Addr) : (s.setPbr v).memRead kind a = s.memRead kind a := by
  simp [State.memRead]

/-! ### setDbr: writes dbr -/

@[simp] theorem setDbr_c (s : State) (v : Byte) : (s.setDbr v).c = s.c := rfl
@[simp] theorem setDbr_x (s : State) (v : Byte) : (s.setDbr v).x = s.x := rfl
@[simp] theorem setDbr_y (s : State) (v : Byte) : (s.setDbr v).y = s.y := rfl
@[simp] theorem setDbr_sp (s : State) (v : Byte) : (s.setDbr v).sp = s.sp := rfl
@[simp] theorem setDbr_d (s : State) (v : Byte) : (s.setDbr v).d = s.d := rfl
@[simp] theorem setDbr_pbr (s : State) (v : Byte) : (s.setDbr v).pbr = s.pbr := rfl
@[simp] theorem setDbr_pc (s : State) (v : Byte) : (s.setDbr v).pc = s.pc := rfl
@[simp] theorem setDbr_p (s : State) (v : Byte) : (s.setDbr v).p = s.p := rfl
@[simp] theorem setDbr_e (s : State) (v : Byte) : (s.setDbr v).e = s.e := rfl
@[simp] theorem setDbr_mem (s : State) (v : Byte) : (s.setDbr v).mem = s.mem := rfl
@[simp] theorem setDbr_nmiPending (s : State) (v : Byte) : (s.setDbr v).nmiPending = s.nmiPending := rfl
@[simp] theorem setDbr_nmiPrev (s : State) (v : Byte) : (s.setDbr v).nmiPrev = s.nmiPrev := rfl
@[simp] theorem setDbr_abortPending (s : State) (v : Byte) : (s.setDbr v).abortPending = s.abortPending := rfl
@[simp] theorem setDbr_waiting (s : State) (v : Byte) : (s.setDbr v).waiting = s.waiting := rfl
@[simp] theorem setDbr_stopped (s : State) (v : Byte) : (s.setDbr v).stopped = s.stopped := rfl
@[simp] theorem setDbr_pins (s : State) (v : Byte) : (s.setDbr v).pins = s.pins := rfl
@[simp] theorem setDbr_input (s : State) (v : Byte) : (s.setDbr v).input = s.input := rfl
@[simp] theorem setDbr_mxInvalid (s : State) (v : Byte) : (s.setDbr v).mxInvalid = s.mxInvalid := rfl
@[simp] theorem setDbr_draws (s : State) (v : Byte) : (s.setDbr v).draws = s.draws := rfl
@[simp] theorem setDbr_readByte (s : State) (v : Byte) (a : Addr) : (s.setDbr v).readByte a = s.readByte a := by
  simp [State.readByte]
@[simp] theorem setDbr_memRead (s : State) (v : Byte) (kind : CycleKind) (a : Addr) : (s.setDbr v).memRead kind a = s.memRead kind a := by
  simp [State.memRead]

/-! ### setDirect: writes d -/

@[simp] theorem setDirect_c (s : State) (v : Word) : (s.setDirect v).c = s.c := rfl
@[simp] theorem setDirect_x (s : State) (v : Word) : (s.setDirect v).x = s.x := rfl
@[simp] theorem setDirect_y (s : State) (v : Word) : (s.setDirect v).y = s.y := rfl
@[simp] theorem setDirect_sp (s : State) (v : Word) : (s.setDirect v).sp = s.sp := rfl
@[simp] theorem setDirect_dbr (s : State) (v : Word) : (s.setDirect v).dbr = s.dbr := rfl
@[simp] theorem setDirect_pbr (s : State) (v : Word) : (s.setDirect v).pbr = s.pbr := rfl
@[simp] theorem setDirect_pc (s : State) (v : Word) : (s.setDirect v).pc = s.pc := rfl
@[simp] theorem setDirect_p (s : State) (v : Word) : (s.setDirect v).p = s.p := rfl
@[simp] theorem setDirect_e (s : State) (v : Word) : (s.setDirect v).e = s.e := rfl
@[simp] theorem setDirect_mem (s : State) (v : Word) : (s.setDirect v).mem = s.mem := rfl
@[simp] theorem setDirect_nmiPending (s : State) (v : Word) : (s.setDirect v).nmiPending = s.nmiPending := rfl
@[simp] theorem setDirect_nmiPrev (s : State) (v : Word) : (s.setDirect v).nmiPrev = s.nmiPrev := rfl
@[simp] theorem setDirect_abortPending (s : State) (v : Word) : (s.setDirect v).abortPending = s.abortPending := rfl
@[simp] theorem setDirect_waiting (s : State) (v : Word) : (s.setDirect v).waiting = s.waiting := rfl
@[simp] theorem setDirect_stopped (s : State) (v : Word) : (s.setDirect v).stopped = s.stopped := rfl
@[simp] theorem setDirect_pins (s : State) (v : Word) : (s.setDirect v).pins = s.pins := rfl
@[simp] theorem setDirect_input (s : State) (v : Word) : (s.setDirect v).input = s.input := rfl
@[simp] theorem setDirect_mxInvalid (s : State) (v : Word) : (s.setDirect v).mxInvalid = s.mxInvalid := rfl
@[simp] theorem setDirect_draws (s : State) (v : Word) : (s.setDirect v).draws = s.draws := rfl
@[simp] theorem setDirect_readByte (s : State) (v : Word) (a : Addr) : (s.setDirect v).readByte a = s.readByte a := by
  simp [State.readByte]
@[simp] theorem setDirect_memRead (s : State) (v : Word) (kind : CycleKind) (a : Addr) : (s.setDirect v).memRead kind a = s.memRead kind a := by
  simp [State.memRead]

/-! ### setC16: writes c -/

@[simp] theorem setC16_x (s : State) (v : Word) : (s.setC16 v).x = s.x := rfl
@[simp] theorem setC16_y (s : State) (v : Word) : (s.setC16 v).y = s.y := rfl
@[simp] theorem setC16_sp (s : State) (v : Word) : (s.setC16 v).sp = s.sp := rfl
@[simp] theorem setC16_d (s : State) (v : Word) : (s.setC16 v).d = s.d := rfl
@[simp] theorem setC16_dbr (s : State) (v : Word) : (s.setC16 v).dbr = s.dbr := rfl
@[simp] theorem setC16_pbr (s : State) (v : Word) : (s.setC16 v).pbr = s.pbr := rfl
@[simp] theorem setC16_pc (s : State) (v : Word) : (s.setC16 v).pc = s.pc := rfl
@[simp] theorem setC16_p (s : State) (v : Word) : (s.setC16 v).p = s.p := rfl
@[simp] theorem setC16_e (s : State) (v : Word) : (s.setC16 v).e = s.e := rfl
@[simp] theorem setC16_mem (s : State) (v : Word) : (s.setC16 v).mem = s.mem := rfl
@[simp] theorem setC16_nmiPending (s : State) (v : Word) : (s.setC16 v).nmiPending = s.nmiPending := rfl
@[simp] theorem setC16_nmiPrev (s : State) (v : Word) : (s.setC16 v).nmiPrev = s.nmiPrev := rfl
@[simp] theorem setC16_abortPending (s : State) (v : Word) : (s.setC16 v).abortPending = s.abortPending := rfl
@[simp] theorem setC16_waiting (s : State) (v : Word) : (s.setC16 v).waiting = s.waiting := rfl
@[simp] theorem setC16_stopped (s : State) (v : Word) : (s.setC16 v).stopped = s.stopped := rfl
@[simp] theorem setC16_pins (s : State) (v : Word) : (s.setC16 v).pins = s.pins := rfl
@[simp] theorem setC16_input (s : State) (v : Word) : (s.setC16 v).input = s.input := rfl
@[simp] theorem setC16_mxInvalid (s : State) (v : Word) : (s.setC16 v).mxInvalid = s.mxInvalid := rfl
@[simp] theorem setC16_draws (s : State) (v : Word) : (s.setC16 v).draws = s.draws := rfl
@[simp] theorem setC16_readByte (s : State) (v : Word) (a : Addr) : (s.setC16 v).readByte a = s.readByte a := by
  simp [State.readByte]
@[simp] theorem setC16_memRead (s : State) (v : Word) (kind : CycleKind) (a : Addr) : (s.setC16 v).memRead kind a = s.memRead kind a := by
  simp [State.memRead]

/-! ### setSp: writes sp -/

@[simp] theorem setSp_c (s : State) (v : Word) : (s.setSp v).c = s.c := rfl
@[simp] theorem setSp_x (s : State) (v : Word) : (s.setSp v).x = s.x := rfl
@[simp] theorem setSp_y (s : State) (v : Word) : (s.setSp v).y = s.y := rfl
@[simp] theorem setSp_d (s : State) (v : Word) : (s.setSp v).d = s.d := rfl
@[simp] theorem setSp_dbr (s : State) (v : Word) : (s.setSp v).dbr = s.dbr := rfl
@[simp] theorem setSp_pbr (s : State) (v : Word) : (s.setSp v).pbr = s.pbr := rfl
@[simp] theorem setSp_pc (s : State) (v : Word) : (s.setSp v).pc = s.pc := rfl
@[simp] theorem setSp_p (s : State) (v : Word) : (s.setSp v).p = s.p := rfl
@[simp] theorem setSp_e (s : State) (v : Word) : (s.setSp v).e = s.e := rfl
@[simp] theorem setSp_mem (s : State) (v : Word) : (s.setSp v).mem = s.mem := rfl
@[simp] theorem setSp_nmiPending (s : State) (v : Word) : (s.setSp v).nmiPending = s.nmiPending := rfl
@[simp] theorem setSp_nmiPrev (s : State) (v : Word) : (s.setSp v).nmiPrev = s.nmiPrev := rfl
@[simp] theorem setSp_abortPending (s : State) (v : Word) : (s.setSp v).abortPending = s.abortPending := rfl
@[simp] theorem setSp_waiting (s : State) (v : Word) : (s.setSp v).waiting = s.waiting := rfl
@[simp] theorem setSp_stopped (s : State) (v : Word) : (s.setSp v).stopped = s.stopped := rfl
@[simp] theorem setSp_pins (s : State) (v : Word) : (s.setSp v).pins = s.pins := rfl
@[simp] theorem setSp_input (s : State) (v : Word) : (s.setSp v).input = s.input := rfl
@[simp] theorem setSp_mxInvalid (s : State) (v : Word) : (s.setSp v).mxInvalid = s.mxInvalid := rfl
@[simp] theorem setSp_draws (s : State) (v : Word) : (s.setSp v).draws = s.draws := rfl
@[simp] theorem setSp_readByte (s : State) (v : Word) (a : Addr) : (s.setSp v).readByte a = s.readByte a := by
  simp [State.readByte]
@[simp] theorem setSp_memRead (s : State) (v : Word) (kind : CycleKind) (a : Addr) : (s.setSp v).memRead kind a = s.memRead kind a := by
  simp [State.memRead]

/-! ### setA: writes c -/

@[simp] theorem setA_x (s : State) (w : Width) (v : Word) : (s.setA w v).x = s.x := by cases w <;> rfl
@[simp] theorem setA_y (s : State) (w : Width) (v : Word) : (s.setA w v).y = s.y := by cases w <;> rfl
@[simp] theorem setA_sp (s : State) (w : Width) (v : Word) : (s.setA w v).sp = s.sp := by cases w <;> rfl
@[simp] theorem setA_d (s : State) (w : Width) (v : Word) : (s.setA w v).d = s.d := by cases w <;> rfl
@[simp] theorem setA_dbr (s : State) (w : Width) (v : Word) : (s.setA w v).dbr = s.dbr := by cases w <;> rfl
@[simp] theorem setA_pbr (s : State) (w : Width) (v : Word) : (s.setA w v).pbr = s.pbr := by cases w <;> rfl
@[simp] theorem setA_pc (s : State) (w : Width) (v : Word) : (s.setA w v).pc = s.pc := by cases w <;> rfl
@[simp] theorem setA_p (s : State) (w : Width) (v : Word) : (s.setA w v).p = s.p := by cases w <;> rfl
@[simp] theorem setA_e (s : State) (w : Width) (v : Word) : (s.setA w v).e = s.e := by cases w <;> rfl
@[simp] theorem setA_mem (s : State) (w : Width) (v : Word) : (s.setA w v).mem = s.mem := by cases w <;> rfl
@[simp] theorem setA_nmiPending (s : State) (w : Width) (v : Word) : (s.setA w v).nmiPending = s.nmiPending := by cases w <;> rfl
@[simp] theorem setA_nmiPrev (s : State) (w : Width) (v : Word) : (s.setA w v).nmiPrev = s.nmiPrev := by cases w <;> rfl
@[simp] theorem setA_abortPending (s : State) (w : Width) (v : Word) : (s.setA w v).abortPending = s.abortPending := by cases w <;> rfl
@[simp] theorem setA_waiting (s : State) (w : Width) (v : Word) : (s.setA w v).waiting = s.waiting := by cases w <;> rfl
@[simp] theorem setA_stopped (s : State) (w : Width) (v : Word) : (s.setA w v).stopped = s.stopped := by cases w <;> rfl
@[simp] theorem setA_pins (s : State) (w : Width) (v : Word) : (s.setA w v).pins = s.pins := by cases w <;> rfl
@[simp] theorem setA_input (s : State) (w : Width) (v : Word) : (s.setA w v).input = s.input := by cases w <;> rfl
@[simp] theorem setA_mxInvalid (s : State) (w : Width) (v : Word) : (s.setA w v).mxInvalid = s.mxInvalid := by cases w <;> rfl
@[simp] theorem setA_draws (s : State) (w : Width) (v : Word) : (s.setA w v).draws = s.draws := by cases w <;> rfl
@[simp] theorem setA_readByte (s : State) (w : Width) (v : Word) (a : Addr) : (s.setA w v).readByte a = s.readByte a := by
  simp [State.readByte]
@[simp] theorem setA_memRead (s : State) (w : Width) (v : Word) (kind : CycleKind) (a : Addr) : (s.setA w v).memRead kind a = s.memRead kind a := by
  simp [State.memRead]

/-! ### setX: writes x -/

@[simp] theorem setX_c (s : State) (w : Width) (v : Word) : (s.setX w v).c = s.c := rfl
@[simp] theorem setX_y (s : State) (w : Width) (v : Word) : (s.setX w v).y = s.y := rfl
@[simp] theorem setX_sp (s : State) (w : Width) (v : Word) : (s.setX w v).sp = s.sp := rfl
@[simp] theorem setX_d (s : State) (w : Width) (v : Word) : (s.setX w v).d = s.d := rfl
@[simp] theorem setX_dbr (s : State) (w : Width) (v : Word) : (s.setX w v).dbr = s.dbr := rfl
@[simp] theorem setX_pbr (s : State) (w : Width) (v : Word) : (s.setX w v).pbr = s.pbr := rfl
@[simp] theorem setX_pc (s : State) (w : Width) (v : Word) : (s.setX w v).pc = s.pc := rfl
@[simp] theorem setX_p (s : State) (w : Width) (v : Word) : (s.setX w v).p = s.p := rfl
@[simp] theorem setX_e (s : State) (w : Width) (v : Word) : (s.setX w v).e = s.e := rfl
@[simp] theorem setX_mem (s : State) (w : Width) (v : Word) : (s.setX w v).mem = s.mem := rfl
@[simp] theorem setX_nmiPending (s : State) (w : Width) (v : Word) : (s.setX w v).nmiPending = s.nmiPending := rfl
@[simp] theorem setX_nmiPrev (s : State) (w : Width) (v : Word) : (s.setX w v).nmiPrev = s.nmiPrev := rfl
@[simp] theorem setX_abortPending (s : State) (w : Width) (v : Word) : (s.setX w v).abortPending = s.abortPending := rfl
@[simp] theorem setX_waiting (s : State) (w : Width) (v : Word) : (s.setX w v).waiting = s.waiting := rfl
@[simp] theorem setX_stopped (s : State) (w : Width) (v : Word) : (s.setX w v).stopped = s.stopped := rfl
@[simp] theorem setX_pins (s : State) (w : Width) (v : Word) : (s.setX w v).pins = s.pins := rfl
@[simp] theorem setX_input (s : State) (w : Width) (v : Word) : (s.setX w v).input = s.input := rfl
@[simp] theorem setX_mxInvalid (s : State) (w : Width) (v : Word) : (s.setX w v).mxInvalid = s.mxInvalid := rfl
@[simp] theorem setX_draws (s : State) (w : Width) (v : Word) : (s.setX w v).draws = s.draws := rfl
@[simp] theorem setX_readByte (s : State) (w : Width) (v : Word) (a : Addr) : (s.setX w v).readByte a = s.readByte a := by
  simp [State.readByte]
@[simp] theorem setX_memRead (s : State) (w : Width) (v : Word) (kind : CycleKind) (a : Addr) : (s.setX w v).memRead kind a = s.memRead kind a := by
  simp [State.memRead]

/-! ### setY: writes y -/

@[simp] theorem setY_c (s : State) (w : Width) (v : Word) : (s.setY w v).c = s.c := rfl
@[simp] theorem setY_x (s : State) (w : Width) (v : Word) : (s.setY w v).x = s.x := rfl
@[simp] theorem setY_sp (s : State) (w : Width) (v : Word) : (s.setY w v).sp = s.sp := rfl
@[simp] theorem setY_d (s : State) (w : Width) (v : Word) : (s.setY w v).d = s.d := rfl
@[simp] theorem setY_dbr (s : State) (w : Width) (v : Word) : (s.setY w v).dbr = s.dbr := rfl
@[simp] theorem setY_pbr (s : State) (w : Width) (v : Word) : (s.setY w v).pbr = s.pbr := rfl
@[simp] theorem setY_pc (s : State) (w : Width) (v : Word) : (s.setY w v).pc = s.pc := rfl
@[simp] theorem setY_p (s : State) (w : Width) (v : Word) : (s.setY w v).p = s.p := rfl
@[simp] theorem setY_e (s : State) (w : Width) (v : Word) : (s.setY w v).e = s.e := rfl
@[simp] theorem setY_mem (s : State) (w : Width) (v : Word) : (s.setY w v).mem = s.mem := rfl
@[simp] theorem setY_nmiPending (s : State) (w : Width) (v : Word) : (s.setY w v).nmiPending = s.nmiPending := rfl
@[simp] theorem setY_nmiPrev (s : State) (w : Width) (v : Word) : (s.setY w v).nmiPrev = s.nmiPrev := rfl
@[simp] theorem setY_abortPending (s : State) (w : Width) (v : Word) : (s.setY w v).abortPending = s.abortPending := rfl
@[simp] theorem setY_waiting (s : State) (w : Width) (v : Word) : (s.setY w v).waiting = s.waiting := rfl
@[simp] theorem setY_stopped (s : State) (w : Width) (v : Word) : (s.setY w v).stopped = s.stopped := rfl
@[simp] theorem setY_pins (s : State) (w : Width) (v : Word) : (s.setY w v).pins = s.pins := rfl
@[simp] theorem setY_input (s : State) (w : Width) (v : Word) : (s.setY w v).input = s.input := rfl
@[simp] theorem setY_mxInvalid (s : State) (w : Width) (v : Word) : (s.setY w v).mxInvalid = s.mxInvalid := rfl
@[simp] theorem setY_draws (s : State) (w : Width) (v : Word) : (s.setY w v).draws = s.draws := rfl
@[simp] theorem setY_readByte (s : State) (w : Width) (v : Word) (a : Addr) : (s.setY w v).readByte a = s.readByte a := by
  simp [State.readByte]
@[simp] theorem setY_memRead (s : State) (w : Width) (v : Word) (kind : CycleKind) (a : Addr) : (s.setY w v).memRead kind a = s.memRead kind a := by
  simp [State.memRead]

/-! ### writeP: writes p, x, y -/

@[simp] theorem writeP_c (s : State) (v : Byte) : (s.writeP v).c = s.c := rfl
@[simp] theorem writeP_sp (s : State) (v : Byte) : (s.writeP v).sp = s.sp := rfl
@[simp] theorem writeP_d (s : State) (v : Byte) : (s.writeP v).d = s.d := rfl
@[simp] theorem writeP_dbr (s : State) (v : Byte) : (s.writeP v).dbr = s.dbr := rfl
@[simp] theorem writeP_pbr (s : State) (v : Byte) : (s.writeP v).pbr = s.pbr := rfl
@[simp] theorem writeP_pc (s : State) (v : Byte) : (s.writeP v).pc = s.pc := rfl
@[simp] theorem writeP_e (s : State) (v : Byte) : (s.writeP v).e = s.e := rfl
@[simp] theorem writeP_mem (s : State) (v : Byte) : (s.writeP v).mem = s.mem := rfl
@[simp] theorem writeP_nmiPending (s : State) (v : Byte) : (s.writeP v).nmiPending = s.nmiPending := rfl
@[simp] theorem writeP_nmiPrev (s : State) (v : Byte) : (s.writeP v).nmiPrev = s.nmiPrev := rfl
@[simp] theorem writeP_abortPending (s : State) (v : Byte) : (s.writeP v).abortPending = s.abortPending := rfl
@[simp] theorem writeP_waiting (s : State) (v : Byte) : (s.writeP v).waiting = s.waiting := rfl
@[simp] theorem writeP_stopped (s : State) (v : Byte) : (s.writeP v).stopped = s.stopped := rfl
@[simp] theorem writeP_pins (s : State) (v : Byte) : (s.writeP v).pins = s.pins := rfl
@[simp] theorem writeP_input (s : State) (v : Byte) : (s.writeP v).input = s.input := rfl
@[simp] theorem writeP_mxInvalid (s : State) (v : Byte) : (s.writeP v).mxInvalid = s.mxInvalid := rfl
@[simp] theorem writeP_draws (s : State) (v : Byte) : (s.writeP v).draws = s.draws := rfl
@[simp] theorem writeP_readByte (s : State) (v : Byte) (a : Addr) : (s.writeP v).readByte a = s.readByte a := by
  simp [State.readByte]
@[simp] theorem writeP_memRead (s : State) (v : Byte) (kind : CycleKind) (a : Addr) : (s.writeP v).memRead kind a = s.memRead kind a := by
  simp [State.memRead]

/-! ### setSpMode: writes sp -/

@[simp] theorem setSpMode_c (s : State) (v : Word) : (s.setSpMode v).c = s.c := rfl
@[simp] theorem setSpMode_x (s : State) (v : Word) : (s.setSpMode v).x = s.x := rfl
@[simp] theorem setSpMode_y (s : State) (v : Word) : (s.setSpMode v).y = s.y := rfl
@[simp] theorem setSpMode_d (s : State) (v : Word) : (s.setSpMode v).d = s.d := rfl
@[simp] theorem setSpMode_dbr (s : State) (v : Word) : (s.setSpMode v).dbr = s.dbr := rfl
@[simp] theorem setSpMode_pbr (s : State) (v : Word) : (s.setSpMode v).pbr = s.pbr := rfl
@[simp] theorem setSpMode_pc (s : State) (v : Word) : (s.setSpMode v).pc = s.pc := rfl
@[simp] theorem setSpMode_p (s : State) (v : Word) : (s.setSpMode v).p = s.p := rfl
@[simp] theorem setSpMode_e (s : State) (v : Word) : (s.setSpMode v).e = s.e := rfl
@[simp] theorem setSpMode_mem (s : State) (v : Word) : (s.setSpMode v).mem = s.mem := rfl
@[simp] theorem setSpMode_nmiPending (s : State) (v : Word) : (s.setSpMode v).nmiPending = s.nmiPending := rfl
@[simp] theorem setSpMode_nmiPrev (s : State) (v : Word) : (s.setSpMode v).nmiPrev = s.nmiPrev := rfl
@[simp] theorem setSpMode_abortPending (s : State) (v : Word) : (s.setSpMode v).abortPending = s.abortPending := rfl
@[simp] theorem setSpMode_waiting (s : State) (v : Word) : (s.setSpMode v).waiting = s.waiting := rfl
@[simp] theorem setSpMode_stopped (s : State) (v : Word) : (s.setSpMode v).stopped = s.stopped := rfl
@[simp] theorem setSpMode_pins (s : State) (v : Word) : (s.setSpMode v).pins = s.pins := rfl
@[simp] theorem setSpMode_input (s : State) (v : Word) : (s.setSpMode v).input = s.input := rfl
@[simp] theorem setSpMode_mxInvalid (s : State) (v : Word) : (s.setSpMode v).mxInvalid = s.mxInvalid := rfl
@[simp] theorem setSpMode_draws (s : State) (v : Word) : (s.setSpMode v).draws = s.draws := rfl
@[simp] theorem setSpMode_readByte (s : State) (v : Word) (a : Addr) : (s.setSpMode v).readByte a = s.readByte a := by
  simp [State.readByte]
@[simp] theorem setSpMode_memRead (s : State) (v : Word) (kind : CycleKind) (a : Addr) : (s.setSpMode v).memRead kind a = s.memRead kind a := by
  simp [State.memRead]

/-! ### writeByte: writes mem -/

@[simp] theorem writeByte_c (s : State) (a : Addr) (v : Byte) : (s.writeByte a v).c = s.c := rfl
@[simp] theorem writeByte_x (s : State) (a : Addr) (v : Byte) : (s.writeByte a v).x = s.x := rfl
@[simp] theorem writeByte_y (s : State) (a : Addr) (v : Byte) : (s.writeByte a v).y = s.y := rfl
@[simp] theorem writeByte_sp (s : State) (a : Addr) (v : Byte) : (s.writeByte a v).sp = s.sp := rfl
@[simp] theorem writeByte_d (s : State) (a : Addr) (v : Byte) : (s.writeByte a v).d = s.d := rfl
@[simp] theorem writeByte_dbr (s : State) (a : Addr) (v : Byte) : (s.writeByte a v).dbr = s.dbr := rfl
@[simp] theorem writeByte_pbr (s : State) (a : Addr) (v : Byte) : (s.writeByte a v).pbr = s.pbr := rfl
@[simp] theorem writeByte_pc (s : State) (a : Addr) (v : Byte) : (s.writeByte a v).pc = s.pc := rfl
@[simp] theorem writeByte_p (s : State) (a : Addr) (v : Byte) : (s.writeByte a v).p = s.p := rfl
@[simp] theorem writeByte_e (s : State) (a : Addr) (v : Byte) : (s.writeByte a v).e = s.e := rfl
@[simp] theorem writeByte_nmiPending (s : State) (a : Addr) (v : Byte) : (s.writeByte a v).nmiPending = s.nmiPending := rfl
@[simp] theorem writeByte_nmiPrev (s : State) (a : Addr) (v : Byte) : (s.writeByte a v).nmiPrev = s.nmiPrev := rfl
@[simp] theorem writeByte_abortPending (s : State) (a : Addr) (v : Byte) : (s.writeByte a v).abortPending = s.abortPending := rfl
@[simp] theorem writeByte_waiting (s : State) (a : Addr) (v : Byte) : (s.writeByte a v).waiting = s.waiting := rfl
@[simp] theorem writeByte_stopped (s : State) (a : Addr) (v : Byte) : (s.writeByte a v).stopped = s.stopped := rfl
@[simp] theorem writeByte_pins (s : State) (a : Addr) (v : Byte) : (s.writeByte a v).pins = s.pins := rfl
@[simp] theorem writeByte_input (s : State) (a : Addr) (v : Byte) : (s.writeByte a v).input = s.input := rfl
@[simp] theorem writeByte_mxInvalid (s : State) (a : Addr) (v : Byte) : (s.writeByte a v).mxInvalid = s.mxInvalid := rfl
@[simp] theorem writeByte_draws (s : State) (a : Addr) (v : Byte) : (s.writeByte a v).draws = s.draws := rfl

/-! ### writeLoc: writes mem -/

@[simp] theorem writeLoc_c (s : State) (w : Width) (l : Loc) (v : Word) : (s.writeLoc w l v).c = s.c := by cases w <;> rfl
@[simp] theorem writeLoc_x (s : State) (w : Width) (l : Loc) (v : Word) : (s.writeLoc w l v).x = s.x := by cases w <;> rfl
@[simp] theorem writeLoc_y (s : State) (w : Width) (l : Loc) (v : Word) : (s.writeLoc w l v).y = s.y := by cases w <;> rfl
@[simp] theorem writeLoc_sp (s : State) (w : Width) (l : Loc) (v : Word) : (s.writeLoc w l v).sp = s.sp := by cases w <;> rfl
@[simp] theorem writeLoc_d (s : State) (w : Width) (l : Loc) (v : Word) : (s.writeLoc w l v).d = s.d := by cases w <;> rfl
@[simp] theorem writeLoc_dbr (s : State) (w : Width) (l : Loc) (v : Word) : (s.writeLoc w l v).dbr = s.dbr := by cases w <;> rfl
@[simp] theorem writeLoc_pbr (s : State) (w : Width) (l : Loc) (v : Word) : (s.writeLoc w l v).pbr = s.pbr := by cases w <;> rfl
@[simp] theorem writeLoc_pc (s : State) (w : Width) (l : Loc) (v : Word) : (s.writeLoc w l v).pc = s.pc := by cases w <;> rfl
@[simp] theorem writeLoc_p (s : State) (w : Width) (l : Loc) (v : Word) : (s.writeLoc w l v).p = s.p := by cases w <;> rfl
@[simp] theorem writeLoc_e (s : State) (w : Width) (l : Loc) (v : Word) : (s.writeLoc w l v).e = s.e := by cases w <;> rfl
@[simp] theorem writeLoc_nmiPending (s : State) (w : Width) (l : Loc) (v : Word) : (s.writeLoc w l v).nmiPending = s.nmiPending := by cases w <;> rfl
@[simp] theorem writeLoc_nmiPrev (s : State) (w : Width) (l : Loc) (v : Word) : (s.writeLoc w l v).nmiPrev = s.nmiPrev := by cases w <;> rfl
@[simp] theorem writeLoc_abortPending (s : State) (w : Width) (l : Loc) (v : Word) : (s.writeLoc w l v).abortPending = s.abortPending := by cases w <;> rfl
@[simp] theorem writeLoc_waiting (s : State) (w : Width) (l : Loc) (v : Word) : (s.writeLoc w l v).waiting = s.waiting := by cases w <;> rfl
@[simp] theorem writeLoc_stopped (s : State) (w : Width) (l : Loc) (v : Word) : (s.writeLoc w l v).stopped = s.stopped := by cases w <;> rfl
@[simp] theorem writeLoc_pins (s : State) (w : Width) (l : Loc) (v : Word) : (s.writeLoc w l v).pins = s.pins := by cases w <;> rfl
@[simp] theorem writeLoc_input (s : State) (w : Width) (l : Loc) (v : Word) : (s.writeLoc w l v).input = s.input := by cases w <;> rfl
@[simp] theorem writeLoc_mxInvalid (s : State) (w : Width) (l : Loc) (v : Word) : (s.writeLoc w l v).mxInvalid = s.mxInvalid := by cases w <;> rfl
@[simp] theorem writeLoc_draws (s : State) (w : Width) (l : Loc) (v : Word) : (s.writeLoc w l v).draws = s.draws := by cases w <;> rfl

/-! ### writeBack: writes mem -/

@[simp] theorem writeBack_c (s : State) (w : Width) (l : Loc) (v : Word) : (s.writeBack w l v).c = s.c := by cases w <;> rfl
@[simp] theorem writeBack_x (s : State) (w : Width) (l : Loc) (v : Word) : (s.writeBack w l v).x = s.x := by cases w <;> rfl
@[simp] theorem writeBack_y (s : State) (w : Width) (l : Loc) (v : Word) : (s.writeBack w l v).y = s.y := by cases w <;> rfl
@[simp] theorem writeBack_sp (s : State) (w : Width) (l : Loc) (v : Word) : (s.writeBack w l v).sp = s.sp := by cases w <;> rfl
@[simp] theorem writeBack_d (s : State) (w : Width) (l : Loc) (v : Word) : (s.writeBack w l v).d = s.d := by cases w <;> rfl
@[simp] theorem writeBack_dbr (s : State) (w : Width) (l : Loc) (v : Word) : (s.writeBack w l v).dbr = s.dbr := by cases w <;> rfl
@[simp] theorem writeBack_pbr (s : State) (w : Width) (l : Loc) (v : Word) : (s.writeBack w l v).pbr = s.pbr := by cases w <;> rfl
@[simp] theorem writeBack_pc (s : State) (w : Width) (l : Loc) (v : Word) : (s.writeBack w l v).pc = s.pc := by cases w <;> rfl
@[simp] theorem writeBack_p (s : State) (w : Width) (l : Loc) (v : Word) : (s.writeBack w l v).p = s.p := by cases w <;> rfl
@[simp] theorem writeBack_e (s : State) (w : Width) (l : Loc) (v : Word) : (s.writeBack w l v).e = s.e := by cases w <;> rfl
@[simp] theorem writeBack_nmiPending (s : State) (w : Width) (l : Loc) (v : Word) : (s.writeBack w l v).nmiPending = s.nmiPending := by cases w <;> rfl
@[simp] theorem writeBack_nmiPrev (s : State) (w : Width) (l : Loc) (v : Word) : (s.writeBack w l v).nmiPrev = s.nmiPrev := by cases w <;> rfl
@[simp] theorem writeBack_abortPending (s : State) (w : Width) (l : Loc) (v : Word) : (s.writeBack w l v).abortPending = s.abortPending := by cases w <;> rfl
@[simp] theorem writeBack_waiting (s : State) (w : Width) (l : Loc) (v : Word) : (s.writeBack w l v).waiting = s.waiting := by cases w <;> rfl
@[simp] theorem writeBack_stopped (s : State) (w : Width) (l : Loc) (v : Word) : (s.writeBack w l v).stopped = s.stopped := by cases w <;> rfl
@[simp] theorem writeBack_pins (s : State) (w : Width) (l : Loc) (v : Word) : (s.writeBack w l v).pins = s.pins := by cases w <;> rfl
@[simp] theorem writeBack_input (s : State) (w : Width) (l : Loc) (v : Word) : (s.writeBack w l v).input = s.input := by cases w <;> rfl
@[simp] theorem writeBack_mxInvalid (s : State) (w : Width) (l : Loc) (v : Word) : (s.writeBack w l v).mxInvalid = s.mxInvalid := by cases w <;> rfl
@[simp] theorem writeBack_draws (s : State) (w : Width) (l : Loc) (v : Word) : (s.writeBack w l v).draws = s.draws := by cases w <;> rfl

/-! ### push8: writes sp, mem -/

@[simp] theorem push8_c (s : State) (v : Byte) : (s.push8 v).c = s.c := rfl
@[simp] theorem push8_x (s : State) (v : Byte) : (s.push8 v).x = s.x := rfl
@[simp] theorem push8_y (s : State) (v : Byte) : (s.push8 v).y = s.y := rfl
@[simp] theorem push8_d (s : State) (v : Byte) : (s.push8 v).d = s.d := rfl
@[simp] theorem push8_dbr (s : State) (v : Byte) : (s.push8 v).dbr = s.dbr := rfl
@[simp] theorem push8_pbr (s : State) (v : Byte) : (s.push8 v).pbr = s.pbr := rfl
@[simp] theorem push8_pc (s : State) (v : Byte) : (s.push8 v).pc = s.pc := rfl
@[simp] theorem push8_p (s : State) (v : Byte) : (s.push8 v).p = s.p := rfl
@[simp] theorem push8_e (s : State) (v : Byte) : (s.push8 v).e = s.e := rfl
@[simp] theorem push8_nmiPending (s : State) (v : Byte) : (s.push8 v).nmiPending = s.nmiPending := rfl
@[simp] theorem push8_nmiPrev (s : State) (v : Byte) : (s.push8 v).nmiPrev = s.nmiPrev := rfl
@[simp] theorem push8_abortPending (s : State) (v : Byte) : (s.push8 v).abortPending = s.abortPending := rfl
@[simp] theorem push8_waiting (s : State) (v : Byte) : (s.push8 v).waiting = s.waiting := rfl
@[simp] theorem push8_stopped (s : State) (v : Byte) : (s.push8 v).stopped = s.stopped := rfl
@[simp] theorem push8_pins (s : State) (v : Byte) : (s.push8 v).pins = s.pins := rfl
@[simp] theorem push8_input (s : State) (v : Byte) : (s.push8 v).input = s.input := rfl
@[simp] theorem push8_mxInvalid (s : State) (v : Byte) : (s.push8 v).mxInvalid = s.mxInvalid := rfl
@[simp] theorem push8_draws (s : State) (v : Byte) : (s.push8 v).draws = s.draws := rfl

/-! ### push16: writes sp, mem -/

@[simp] theorem push16_c (s : State) (v : Word) : (s.push16 v).c = s.c := by simp [State.push16]
@[simp] theorem push16_x (s : State) (v : Word) : (s.push16 v).x = s.x := by simp [State.push16]
@[simp] theorem push16_y (s : State) (v : Word) : (s.push16 v).y = s.y := by simp [State.push16]
@[simp] theorem push16_d (s : State) (v : Word) : (s.push16 v).d = s.d := by simp [State.push16]
@[simp] theorem push16_dbr (s : State) (v : Word) : (s.push16 v).dbr = s.dbr := by simp [State.push16]
@[simp] theorem push16_pbr (s : State) (v : Word) : (s.push16 v).pbr = s.pbr := by simp [State.push16]
@[simp] theorem push16_pc (s : State) (v : Word) : (s.push16 v).pc = s.pc := by simp [State.push16]
@[simp] theorem push16_p (s : State) (v : Word) : (s.push16 v).p = s.p := by simp [State.push16]
@[simp] theorem push16_e (s : State) (v : Word) : (s.push16 v).e = s.e := by simp [State.push16]
@[simp] theorem push16_nmiPending (s : State) (v : Word) : (s.push16 v).nmiPending = s.nmiPending := by simp [State.push16]
@[simp] theorem push16_nmiPrev (s : State) (v : Word) : (s.push16 v).nmiPrev = s.nmiPrev := by simp [State.push16]
@[simp] theorem push16_abortPending (s : State) (v : Word) : (s.push16 v).abortPending = s.abortPending := by simp [State.push16]
@[simp] theorem push16_waiting (s : State) (v : Word) : (s.push16 v).waiting = s.waiting := by simp [State.push16]
@[simp] theorem push16_stopped (s : State) (v : Word) : (s.push16 v).stopped = s.stopped := by simp [State.push16]
@[simp] theorem push16_pins (s : State) (v : Word) : (s.push16 v).pins = s.pins := by simp [State.push16]
@[simp] theorem push16_input (s : State) (v : Word) : (s.push16 v).input = s.input := by simp [State.push16]
@[simp] theorem push16_mxInvalid (s : State) (v : Word) : (s.push16 v).mxInvalid = s.mxInvalid := by simp [State.push16]
@[simp] theorem push16_draws (s : State) (v : Word) : (s.push16 v).draws = s.draws := by simp [State.push16]

/-! ### pushN8: writes sp, mem -/

@[simp] theorem pushN8_c (s : State) (v : Byte) : (s.pushN8 v).c = s.c := rfl
@[simp] theorem pushN8_x (s : State) (v : Byte) : (s.pushN8 v).x = s.x := rfl
@[simp] theorem pushN8_y (s : State) (v : Byte) : (s.pushN8 v).y = s.y := rfl
@[simp] theorem pushN8_d (s : State) (v : Byte) : (s.pushN8 v).d = s.d := rfl
@[simp] theorem pushN8_dbr (s : State) (v : Byte) : (s.pushN8 v).dbr = s.dbr := rfl
@[simp] theorem pushN8_pbr (s : State) (v : Byte) : (s.pushN8 v).pbr = s.pbr := rfl
@[simp] theorem pushN8_pc (s : State) (v : Byte) : (s.pushN8 v).pc = s.pc := rfl
@[simp] theorem pushN8_p (s : State) (v : Byte) : (s.pushN8 v).p = s.p := rfl
@[simp] theorem pushN8_e (s : State) (v : Byte) : (s.pushN8 v).e = s.e := rfl
@[simp] theorem pushN8_nmiPending (s : State) (v : Byte) : (s.pushN8 v).nmiPending = s.nmiPending := rfl
@[simp] theorem pushN8_nmiPrev (s : State) (v : Byte) : (s.pushN8 v).nmiPrev = s.nmiPrev := rfl
@[simp] theorem pushN8_abortPending (s : State) (v : Byte) : (s.pushN8 v).abortPending = s.abortPending := rfl
@[simp] theorem pushN8_waiting (s : State) (v : Byte) : (s.pushN8 v).waiting = s.waiting := rfl
@[simp] theorem pushN8_stopped (s : State) (v : Byte) : (s.pushN8 v).stopped = s.stopped := rfl
@[simp] theorem pushN8_pins (s : State) (v : Byte) : (s.pushN8 v).pins = s.pins := rfl
@[simp] theorem pushN8_input (s : State) (v : Byte) : (s.pushN8 v).input = s.input := rfl
@[simp] theorem pushN8_mxInvalid (s : State) (v : Byte) : (s.pushN8 v).mxInvalid = s.mxInvalid := rfl
@[simp] theorem pushN8_draws (s : State) (v : Byte) : (s.pushN8 v).draws = s.draws := rfl

/-! ### pushN16: writes sp, mem -/

@[simp] theorem pushN16_c (s : State) (v : Word) : (s.pushN16 v).c = s.c := by simp [State.pushN16]
@[simp] theorem pushN16_x (s : State) (v : Word) : (s.pushN16 v).x = s.x := by simp [State.pushN16]
@[simp] theorem pushN16_y (s : State) (v : Word) : (s.pushN16 v).y = s.y := by simp [State.pushN16]
@[simp] theorem pushN16_d (s : State) (v : Word) : (s.pushN16 v).d = s.d := by simp [State.pushN16]
@[simp] theorem pushN16_dbr (s : State) (v : Word) : (s.pushN16 v).dbr = s.dbr := by simp [State.pushN16]
@[simp] theorem pushN16_pbr (s : State) (v : Word) : (s.pushN16 v).pbr = s.pbr := by simp [State.pushN16]
@[simp] theorem pushN16_pc (s : State) (v : Word) : (s.pushN16 v).pc = s.pc := by simp [State.pushN16]
@[simp] theorem pushN16_p (s : State) (v : Word) : (s.pushN16 v).p = s.p := by simp [State.pushN16]
@[simp] theorem pushN16_e (s : State) (v : Word) : (s.pushN16 v).e = s.e := by simp [State.pushN16]
@[simp] theorem pushN16_nmiPending (s : State) (v : Word) : (s.pushN16 v).nmiPending = s.nmiPending := by simp [State.pushN16]
@[simp] theorem pushN16_nmiPrev (s : State) (v : Word) : (s.pushN16 v).nmiPrev = s.nmiPrev := by simp [State.pushN16]
@[simp] theorem pushN16_abortPending (s : State) (v : Word) : (s.pushN16 v).abortPending = s.abortPending := by simp [State.pushN16]
@[simp] theorem pushN16_waiting (s : State) (v : Word) : (s.pushN16 v).waiting = s.waiting := by simp [State.pushN16]
@[simp] theorem pushN16_stopped (s : State) (v : Word) : (s.pushN16 v).stopped = s.stopped := by simp [State.pushN16]
@[simp] theorem pushN16_pins (s : State) (v : Word) : (s.pushN16 v).pins = s.pins := by simp [State.pushN16]
@[simp] theorem pushN16_input (s : State) (v : Word) : (s.pushN16 v).input = s.input := by simp [State.pushN16]
@[simp] theorem pushN16_mxInvalid (s : State) (v : Word) : (s.pushN16 v).mxInvalid = s.mxInvalid := by simp [State.pushN16]
@[simp] theorem pushN16_draws (s : State) (v : Word) : (s.pushN16 v).draws = s.draws := by simp [State.pushN16]

/-! ### pullSp: writes sp -/

@[simp] theorem pullSp_c (s : State) : s.pullSp.c = s.c := rfl
@[simp] theorem pullSp_x (s : State) : s.pullSp.x = s.x := rfl
@[simp] theorem pullSp_y (s : State) : s.pullSp.y = s.y := rfl
@[simp] theorem pullSp_d (s : State) : s.pullSp.d = s.d := rfl
@[simp] theorem pullSp_dbr (s : State) : s.pullSp.dbr = s.dbr := rfl
@[simp] theorem pullSp_pbr (s : State) : s.pullSp.pbr = s.pbr := rfl
@[simp] theorem pullSp_pc (s : State) : s.pullSp.pc = s.pc := rfl
@[simp] theorem pullSp_p (s : State) : s.pullSp.p = s.p := rfl
@[simp] theorem pullSp_e (s : State) : s.pullSp.e = s.e := rfl
@[simp] theorem pullSp_mem (s : State) : s.pullSp.mem = s.mem := rfl
@[simp] theorem pullSp_nmiPending (s : State) : s.pullSp.nmiPending = s.nmiPending := rfl
@[simp] theorem pullSp_nmiPrev (s : State) : s.pullSp.nmiPrev = s.nmiPrev := rfl
@[simp] theorem pullSp_abortPending (s : State) : s.pullSp.abortPending = s.abortPending := rfl
@[simp] theorem pullSp_waiting (s : State) : s.pullSp.waiting = s.waiting := rfl
@[simp] theorem pullSp_stopped (s : State) : s.pullSp.stopped = s.stopped := rfl
@[simp] theorem pullSp_pins (s : State) : s.pullSp.pins = s.pins := rfl
@[simp] theorem pullSp_input (s : State) : s.pullSp.input = s.input := rfl
@[simp] theorem pullSp_mxInvalid (s : State) : s.pullSp.mxInvalid = s.mxInvalid := rfl
@[simp] theorem pullSp_draws (s : State) : s.pullSp.draws = s.draws := rfl
@[simp] theorem pullSp_readByte (s : State) (a : Addr) : s.pullSp.readByte a = s.readByte a := by
  simp [State.readByte]
@[simp] theorem pullSp_memRead (s : State) (kind : CycleKind) (a : Addr) : s.pullSp.memRead kind a = s.memRead kind a := by
  simp [State.memRead]

/-! ### pull8: writes sp -/

@[simp] theorem pull8_c (s : State) : s.pull8.2.c = s.c := rfl
@[simp] theorem pull8_x (s : State) : s.pull8.2.x = s.x := rfl
@[simp] theorem pull8_y (s : State) : s.pull8.2.y = s.y := rfl
@[simp] theorem pull8_d (s : State) : s.pull8.2.d = s.d := rfl
@[simp] theorem pull8_dbr (s : State) : s.pull8.2.dbr = s.dbr := rfl
@[simp] theorem pull8_pbr (s : State) : s.pull8.2.pbr = s.pbr := rfl
@[simp] theorem pull8_pc (s : State) : s.pull8.2.pc = s.pc := rfl
@[simp] theorem pull8_p (s : State) : s.pull8.2.p = s.p := rfl
@[simp] theorem pull8_e (s : State) : s.pull8.2.e = s.e := rfl
@[simp] theorem pull8_mem (s : State) : s.pull8.2.mem = s.mem := rfl
@[simp] theorem pull8_nmiPending (s : State) : s.pull8.2.nmiPending = s.nmiPending := rfl
@[simp] theorem pull8_nmiPrev (s : State) : s.pull8.2.nmiPrev = s.nmiPrev := rfl
@[simp] theorem pull8_abortPending (s : State) : s.pull8.2.abortPending = s.abortPending := rfl
@[simp] theorem pull8_waiting (s : State) : s.pull8.2.waiting = s.waiting := rfl
@[simp] theorem pull8_stopped (s : State) : s.pull8.2.stopped = s.stopped := rfl
@[simp] theorem pull8_pins (s : State) : s.pull8.2.pins = s.pins := rfl
@[simp] theorem pull8_input (s : State) : s.pull8.2.input = s.input := rfl
@[simp] theorem pull8_mxInvalid (s : State) : s.pull8.2.mxInvalid = s.mxInvalid := rfl
@[simp] theorem pull8_draws (s : State) : s.pull8.2.draws = s.draws := rfl
@[simp] theorem pull8_readByte (s : State) (a : Addr) : s.pull8.2.readByte a = s.readByte a := by
  simp [State.readByte]
@[simp] theorem pull8_memRead (s : State) (kind : CycleKind) (a : Addr) : s.pull8.2.memRead kind a = s.memRead kind a := by
  simp [State.memRead]

/-! ### pull16: writes sp -/

@[simp] theorem pull16_c (s : State) : s.pull16.2.c = s.c := rfl
@[simp] theorem pull16_x (s : State) : s.pull16.2.x = s.x := rfl
@[simp] theorem pull16_y (s : State) : s.pull16.2.y = s.y := rfl
@[simp] theorem pull16_d (s : State) : s.pull16.2.d = s.d := rfl
@[simp] theorem pull16_dbr (s : State) : s.pull16.2.dbr = s.dbr := rfl
@[simp] theorem pull16_pbr (s : State) : s.pull16.2.pbr = s.pbr := rfl
@[simp] theorem pull16_pc (s : State) : s.pull16.2.pc = s.pc := rfl
@[simp] theorem pull16_p (s : State) : s.pull16.2.p = s.p := rfl
@[simp] theorem pull16_e (s : State) : s.pull16.2.e = s.e := rfl
@[simp] theorem pull16_mem (s : State) : s.pull16.2.mem = s.mem := rfl
@[simp] theorem pull16_nmiPending (s : State) : s.pull16.2.nmiPending = s.nmiPending := rfl
@[simp] theorem pull16_nmiPrev (s : State) : s.pull16.2.nmiPrev = s.nmiPrev := rfl
@[simp] theorem pull16_abortPending (s : State) : s.pull16.2.abortPending = s.abortPending := rfl
@[simp] theorem pull16_waiting (s : State) : s.pull16.2.waiting = s.waiting := rfl
@[simp] theorem pull16_stopped (s : State) : s.pull16.2.stopped = s.stopped := rfl
@[simp] theorem pull16_pins (s : State) : s.pull16.2.pins = s.pins := rfl
@[simp] theorem pull16_input (s : State) : s.pull16.2.input = s.input := rfl
@[simp] theorem pull16_mxInvalid (s : State) : s.pull16.2.mxInvalid = s.mxInvalid := rfl
@[simp] theorem pull16_draws (s : State) : s.pull16.2.draws = s.draws := rfl
@[simp] theorem pull16_readByte (s : State) (a : Addr) : s.pull16.2.readByte a = s.readByte a := by
  simp [State.readByte]
@[simp] theorem pull16_memRead (s : State) (kind : CycleKind) (a : Addr) : s.pull16.2.memRead kind a = s.memRead kind a := by
  simp [State.memRead]

/-! ### pullN8: writes sp -/

@[simp] theorem pullN8_c (s : State) : s.pullN8.2.c = s.c := rfl
@[simp] theorem pullN8_x (s : State) : s.pullN8.2.x = s.x := rfl
@[simp] theorem pullN8_y (s : State) : s.pullN8.2.y = s.y := rfl
@[simp] theorem pullN8_d (s : State) : s.pullN8.2.d = s.d := rfl
@[simp] theorem pullN8_dbr (s : State) : s.pullN8.2.dbr = s.dbr := rfl
@[simp] theorem pullN8_pbr (s : State) : s.pullN8.2.pbr = s.pbr := rfl
@[simp] theorem pullN8_pc (s : State) : s.pullN8.2.pc = s.pc := rfl
@[simp] theorem pullN8_p (s : State) : s.pullN8.2.p = s.p := rfl
@[simp] theorem pullN8_e (s : State) : s.pullN8.2.e = s.e := rfl
@[simp] theorem pullN8_mem (s : State) : s.pullN8.2.mem = s.mem := rfl
@[simp] theorem pullN8_nmiPending (s : State) : s.pullN8.2.nmiPending = s.nmiPending := rfl
@[simp] theorem pullN8_nmiPrev (s : State) : s.pullN8.2.nmiPrev = s.nmiPrev := rfl
@[simp] theorem pullN8_abortPending (s : State) : s.pullN8.2.abortPending = s.abortPending := rfl
@[simp] theorem pullN8_waiting (s : State) : s.pullN8.2.waiting = s.waiting := rfl
@[simp] theorem pullN8_stopped (s : State) : s.pullN8.2.stopped = s.stopped := rfl
@[simp] theorem pullN8_pins (s : State) : s.pullN8.2.pins = s.pins := rfl
@[simp] theorem pullN8_input (s : State) : s.pullN8.2.input = s.input := rfl
@[simp] theorem pullN8_mxInvalid (s : State) : s.pullN8.2.mxInvalid = s.mxInvalid := rfl
@[simp] theorem pullN8_draws (s : State) : s.pullN8.2.draws = s.draws := rfl
@[simp] theorem pullN8_readByte (s : State) (a : Addr) : s.pullN8.2.readByte a = s.readByte a := by
  simp [State.readByte]
@[simp] theorem pullN8_memRead (s : State) (kind : CycleKind) (a : Addr) : s.pullN8.2.memRead kind a = s.memRead kind a := by
  simp [State.memRead]

/-! ### pullN16: writes sp -/

@[simp] theorem pullN16_c (s : State) : s.pullN16.2.c = s.c := rfl
@[simp] theorem pullN16_x (s : State) : s.pullN16.2.x = s.x := rfl
@[simp] theorem pullN16_y (s : State) : s.pullN16.2.y = s.y := rfl
@[simp] theorem pullN16_d (s : State) : s.pullN16.2.d = s.d := rfl
@[simp] theorem pullN16_dbr (s : State) : s.pullN16.2.dbr = s.dbr := rfl
@[simp] theorem pullN16_pbr (s : State) : s.pullN16.2.pbr = s.pbr := rfl
@[simp] theorem pullN16_pc (s : State) : s.pullN16.2.pc = s.pc := rfl
@[simp] theorem pullN16_p (s : State) : s.pullN16.2.p = s.p := rfl
@[simp] theorem pullN16_e (s : State) : s.pullN16.2.e = s.e := rfl
@[simp] theorem pullN16_mem (s : State) : s.pullN16.2.mem = s.mem := rfl
@[simp] theorem pullN16_nmiPending (s : State) : s.pullN16.2.nmiPending = s.nmiPending := rfl
@[simp] theorem pullN16_nmiPrev (s : State) : s.pullN16.2.nmiPrev = s.nmiPrev := rfl
@[simp] theorem pullN16_abortPending (s : State) : s.pullN16.2.abortPending = s.abortPending := rfl
@[simp] theorem pullN16_waiting (s : State) : s.pullN16.2.waiting = s.waiting := rfl
@[simp] theorem pullN16_stopped (s : State) : s.pullN16.2.stopped = s.stopped := rfl
@[simp] theorem pullN16_pins (s : State) : s.pullN16.2.pins = s.pins := rfl
@[simp] theorem pullN16_input (s : State) : s.pullN16.2.input = s.input := rfl
@[simp] theorem pullN16_mxInvalid (s : State) : s.pullN16.2.mxInvalid = s.mxInvalid := rfl
@[simp] theorem pullN16_draws (s : State) : s.pullN16.2.draws = s.draws := rfl
@[simp] theorem pullN16_readByte (s : State) (a : Addr) : s.pullN16.2.readByte a = s.readByte a := by
  simp [State.readByte]
@[simp] theorem pullN16_memRead (s : State) (kind : CycleKind) (a : Addr) : s.pullN16.2.memRead kind a = s.memRead kind a := by
  simp [State.memRead]

/-! ### pull: writes sp -/

@[simp] theorem pull_c (s : State) (w : Width) : ((s.pull w).2).c = s.c := by cases w <;> rfl
@[simp] theorem pull_x (s : State) (w : Width) : ((s.pull w).2).x = s.x := by cases w <;> rfl
@[simp] theorem pull_y (s : State) (w : Width) : ((s.pull w).2).y = s.y := by cases w <;> rfl
@[simp] theorem pull_d (s : State) (w : Width) : ((s.pull w).2).d = s.d := by cases w <;> rfl
@[simp] theorem pull_dbr (s : State) (w : Width) : ((s.pull w).2).dbr = s.dbr := by cases w <;> rfl
@[simp] theorem pull_pbr (s : State) (w : Width) : ((s.pull w).2).pbr = s.pbr := by cases w <;> rfl
@[simp] theorem pull_pc (s : State) (w : Width) : ((s.pull w).2).pc = s.pc := by cases w <;> rfl
@[simp] theorem pull_p (s : State) (w : Width) : ((s.pull w).2).p = s.p := by cases w <;> rfl
@[simp] theorem pull_e (s : State) (w : Width) : ((s.pull w).2).e = s.e := by cases w <;> rfl
@[simp] theorem pull_mem (s : State) (w : Width) : ((s.pull w).2).mem = s.mem := by cases w <;> rfl
@[simp] theorem pull_nmiPending (s : State) (w : Width) : ((s.pull w).2).nmiPending = s.nmiPending := by cases w <;> rfl
@[simp] theorem pull_nmiPrev (s : State) (w : Width) : ((s.pull w).2).nmiPrev = s.nmiPrev := by cases w <;> rfl
@[simp] theorem pull_abortPending (s : State) (w : Width) : ((s.pull w).2).abortPending = s.abortPending := by cases w <;> rfl
@[simp] theorem pull_waiting (s : State) (w : Width) : ((s.pull w).2).waiting = s.waiting := by cases w <;> rfl
@[simp] theorem pull_stopped (s : State) (w : Width) : ((s.pull w).2).stopped = s.stopped := by cases w <;> rfl
@[simp] theorem pull_pins (s : State) (w : Width) : ((s.pull w).2).pins = s.pins := by cases w <;> rfl
@[simp] theorem pull_input (s : State) (w : Width) : ((s.pull w).2).input = s.input := by cases w <;> rfl
@[simp] theorem pull_mxInvalid (s : State) (w : Width) : ((s.pull w).2).mxInvalid = s.mxInvalid := by cases w <;> rfl
@[simp] theorem pull_draws (s : State) (w : Width) : ((s.pull w).2).draws = s.draws := by cases w <;> rfl
@[simp] theorem pull_readByte (s : State) (w : Width) (a : Addr) : ((s.pull w).2).readByte a = s.readByte a := by
  simp [State.readByte]
@[simp] theorem pull_memRead (s : State) (w : Width) (kind : CycleKind) (a : Addr) : ((s.pull w).2).memRead kind a = s.memRead kind a := by
  simp [State.memRead]

/-! ### fixSh: writes sp -/

@[simp] theorem fixSh_c (s : State) : s.fixSh.c = s.c := rfl
@[simp] theorem fixSh_x (s : State) : s.fixSh.x = s.x := rfl
@[simp] theorem fixSh_y (s : State) : s.fixSh.y = s.y := rfl
@[simp] theorem fixSh_d (s : State) : s.fixSh.d = s.d := rfl
@[simp] theorem fixSh_dbr (s : State) : s.fixSh.dbr = s.dbr := rfl
@[simp] theorem fixSh_pbr (s : State) : s.fixSh.pbr = s.pbr := rfl
@[simp] theorem fixSh_pc (s : State) : s.fixSh.pc = s.pc := rfl
@[simp] theorem fixSh_p (s : State) : s.fixSh.p = s.p := rfl
@[simp] theorem fixSh_e (s : State) : s.fixSh.e = s.e := rfl
@[simp] theorem fixSh_mem (s : State) : s.fixSh.mem = s.mem := rfl
@[simp] theorem fixSh_nmiPending (s : State) : s.fixSh.nmiPending = s.nmiPending := rfl
@[simp] theorem fixSh_nmiPrev (s : State) : s.fixSh.nmiPrev = s.nmiPrev := rfl
@[simp] theorem fixSh_abortPending (s : State) : s.fixSh.abortPending = s.abortPending := rfl
@[simp] theorem fixSh_waiting (s : State) : s.fixSh.waiting = s.waiting := rfl
@[simp] theorem fixSh_stopped (s : State) : s.fixSh.stopped = s.stopped := rfl
@[simp] theorem fixSh_pins (s : State) : s.fixSh.pins = s.pins := rfl
@[simp] theorem fixSh_input (s : State) : s.fixSh.input = s.input := rfl
@[simp] theorem fixSh_mxInvalid (s : State) : s.fixSh.mxInvalid = s.mxInvalid := rfl
@[simp] theorem fixSh_draws (s : State) : s.fixSh.draws = s.draws := rfl
@[simp] theorem fixSh_readByte (s : State) (a : Addr) : s.fixSh.readByte a = s.readByte a := by
  simp [State.readByte]
@[simp] theorem fixSh_memRead (s : State) (kind : CycleKind) (a : Addr) : s.fixSh.memRead kind a = s.memRead kind a := by
  simp [State.memRead]

/-! ### draw: writes draws -/

@[simp] theorem draw_c (s : State) : s.draw.c = s.c := rfl
@[simp] theorem draw_x (s : State) : s.draw.x = s.x := rfl
@[simp] theorem draw_y (s : State) : s.draw.y = s.y := rfl
@[simp] theorem draw_sp (s : State) : s.draw.sp = s.sp := rfl
@[simp] theorem draw_d (s : State) : s.draw.d = s.d := rfl
@[simp] theorem draw_dbr (s : State) : s.draw.dbr = s.dbr := rfl
@[simp] theorem draw_pbr (s : State) : s.draw.pbr = s.pbr := rfl
@[simp] theorem draw_pc (s : State) : s.draw.pc = s.pc := rfl
@[simp] theorem draw_p (s : State) : s.draw.p = s.p := rfl
@[simp] theorem draw_e (s : State) : s.draw.e = s.e := rfl
@[simp] theorem draw_mem (s : State) : s.draw.mem = s.mem := rfl
@[simp] theorem draw_nmiPending (s : State) : s.draw.nmiPending = s.nmiPending := rfl
@[simp] theorem draw_nmiPrev (s : State) : s.draw.nmiPrev = s.nmiPrev := rfl
@[simp] theorem draw_abortPending (s : State) : s.draw.abortPending = s.abortPending := rfl
@[simp] theorem draw_waiting (s : State) : s.draw.waiting = s.waiting := rfl
@[simp] theorem draw_stopped (s : State) : s.draw.stopped = s.stopped := rfl
@[simp] theorem draw_pins (s : State) : s.draw.pins = s.pins := rfl
@[simp] theorem draw_input (s : State) : s.draw.input = s.input := rfl
@[simp] theorem draw_mxInvalid (s : State) : s.draw.mxInvalid = s.mxInvalid := rfl
@[simp] theorem draw_readByte (s : State) (a : Addr) : s.draw.readByte a = s.readByte a := by
  simp [State.readByte]
@[simp] theorem draw_memRead (s : State) (kind : CycleKind) (a : Addr) : s.draw.memRead kind a = s.memRead kind a := by
  simp [State.memRead]

/-! ### setE: writes e, p, sp, x, y -/

@[simp] theorem setE_c (s : State) (v : Bool) : (s.setE v).c = s.c := rfl
@[simp] theorem setE_d (s : State) (v : Bool) : (s.setE v).d = s.d := rfl
@[simp] theorem setE_dbr (s : State) (v : Bool) : (s.setE v).dbr = s.dbr := rfl
@[simp] theorem setE_pbr (s : State) (v : Bool) : (s.setE v).pbr = s.pbr := rfl
@[simp] theorem setE_pc (s : State) (v : Bool) : (s.setE v).pc = s.pc := rfl
@[simp] theorem setE_mem (s : State) (v : Bool) : (s.setE v).mem = s.mem := rfl
@[simp] theorem setE_nmiPending (s : State) (v : Bool) : (s.setE v).nmiPending = s.nmiPending := rfl
@[simp] theorem setE_nmiPrev (s : State) (v : Bool) : (s.setE v).nmiPrev = s.nmiPrev := rfl
@[simp] theorem setE_abortPending (s : State) (v : Bool) : (s.setE v).abortPending = s.abortPending := rfl
@[simp] theorem setE_waiting (s : State) (v : Bool) : (s.setE v).waiting = s.waiting := rfl
@[simp] theorem setE_stopped (s : State) (v : Bool) : (s.setE v).stopped = s.stopped := rfl
@[simp] theorem setE_pins (s : State) (v : Bool) : (s.setE v).pins = s.pins := rfl
@[simp] theorem setE_input (s : State) (v : Bool) : (s.setE v).input = s.input := rfl
@[simp] theorem setE_mxInvalid (s : State) (v : Bool) : (s.setE v).mxInvalid = s.mxInvalid := rfl
@[simp] theorem setE_draws (s : State) (v : Bool) : (s.setE v).draws = s.draws := rfl
@[simp] theorem setE_readByte (s : State) (v : Bool) (a : Addr) : (s.setE v).readByte a = s.readByte a := by
  simp [State.readByte]
@[simp] theorem setE_memRead (s : State) (v : Bool) (kind : CycleKind) (a : Addr) : (s.setE v).memRead kind a = s.memRead kind a := by
  simp [State.memRead]

/-! ### afterReads: writes pins -/

@[simp] theorem afterReads_c (s : State) (k : CycleKind) (as : List Addr) : (s.afterReads k as).c = s.c := rfl
@[simp] theorem afterReads_x (s : State) (k : CycleKind) (as : List Addr) : (s.afterReads k as).x = s.x := rfl
@[simp] theorem afterReads_y (s : State) (k : CycleKind) (as : List Addr) : (s.afterReads k as).y = s.y := rfl
@[simp] theorem afterReads_sp (s : State) (k : CycleKind) (as : List Addr) : (s.afterReads k as).sp = s.sp := rfl
@[simp] theorem afterReads_d (s : State) (k : CycleKind) (as : List Addr) : (s.afterReads k as).d = s.d := rfl
@[simp] theorem afterReads_dbr (s : State) (k : CycleKind) (as : List Addr) : (s.afterReads k as).dbr = s.dbr := rfl
@[simp] theorem afterReads_pbr (s : State) (k : CycleKind) (as : List Addr) : (s.afterReads k as).pbr = s.pbr := rfl
@[simp] theorem afterReads_pc (s : State) (k : CycleKind) (as : List Addr) : (s.afterReads k as).pc = s.pc := rfl
@[simp] theorem afterReads_p (s : State) (k : CycleKind) (as : List Addr) : (s.afterReads k as).p = s.p := rfl
@[simp] theorem afterReads_e (s : State) (k : CycleKind) (as : List Addr) : (s.afterReads k as).e = s.e := rfl
@[simp] theorem afterReads_mem (s : State) (k : CycleKind) (as : List Addr) : (s.afterReads k as).mem = s.mem := rfl
@[simp] theorem afterReads_nmiPending (s : State) (k : CycleKind) (as : List Addr) : (s.afterReads k as).nmiPending = s.nmiPending := rfl
@[simp] theorem afterReads_nmiPrev (s : State) (k : CycleKind) (as : List Addr) : (s.afterReads k as).nmiPrev = s.nmiPrev := rfl
@[simp] theorem afterReads_abortPending (s : State) (k : CycleKind) (as : List Addr) : (s.afterReads k as).abortPending = s.abortPending := rfl
@[simp] theorem afterReads_waiting (s : State) (k : CycleKind) (as : List Addr) : (s.afterReads k as).waiting = s.waiting := rfl
@[simp] theorem afterReads_stopped (s : State) (k : CycleKind) (as : List Addr) : (s.afterReads k as).stopped = s.stopped := rfl
@[simp] theorem afterReads_input (s : State) (k : CycleKind) (as : List Addr) : (s.afterReads k as).input = s.input := rfl
@[simp] theorem afterReads_mxInvalid (s : State) (k : CycleKind) (as : List Addr) : (s.afterReads k as).mxInvalid = s.mxInvalid := rfl
@[simp] theorem afterReads_draws (s : State) (k : CycleKind) (as : List Addr) : (s.afterReads k as).draws = s.draws := rfl
@[simp] theorem afterReads_readByte (s : State) (k : CycleKind) (as : List Addr) (a : Addr) : (s.afterReads k as).readByte a = s.readByte a := by
  simp [State.readByte]

/-! ### afterOperand: writes pins -/

@[simp] theorem afterOperand_c (s : State) : s.afterOperand.c = s.c := rfl
@[simp] theorem afterOperand_x (s : State) : s.afterOperand.x = s.x := rfl
@[simp] theorem afterOperand_y (s : State) : s.afterOperand.y = s.y := rfl
@[simp] theorem afterOperand_sp (s : State) : s.afterOperand.sp = s.sp := rfl
@[simp] theorem afterOperand_d (s : State) : s.afterOperand.d = s.d := rfl
@[simp] theorem afterOperand_dbr (s : State) : s.afterOperand.dbr = s.dbr := rfl
@[simp] theorem afterOperand_pbr (s : State) : s.afterOperand.pbr = s.pbr := rfl
@[simp] theorem afterOperand_pc (s : State) : s.afterOperand.pc = s.pc := rfl
@[simp] theorem afterOperand_p (s : State) : s.afterOperand.p = s.p := rfl
@[simp] theorem afterOperand_e (s : State) : s.afterOperand.e = s.e := rfl
@[simp] theorem afterOperand_mem (s : State) : s.afterOperand.mem = s.mem := rfl
@[simp] theorem afterOperand_nmiPending (s : State) : s.afterOperand.nmiPending = s.nmiPending := rfl
@[simp] theorem afterOperand_nmiPrev (s : State) : s.afterOperand.nmiPrev = s.nmiPrev := rfl
@[simp] theorem afterOperand_abortPending (s : State) : s.afterOperand.abortPending = s.abortPending := rfl
@[simp] theorem afterOperand_waiting (s : State) : s.afterOperand.waiting = s.waiting := rfl
@[simp] theorem afterOperand_stopped (s : State) : s.afterOperand.stopped = s.stopped := rfl
@[simp] theorem afterOperand_input (s : State) : s.afterOperand.input = s.input := rfl
@[simp] theorem afterOperand_mxInvalid (s : State) : s.afterOperand.mxInvalid = s.mxInvalid := rfl
@[simp] theorem afterOperand_draws (s : State) : s.afterOperand.draws = s.draws := rfl
@[simp] theorem afterOperand_readByte (s : State) (a : Addr) : s.afterOperand.readByte a = s.readByte a := by
  simp [State.readByte]

/-! ### pushFrame: writes sp, mem -/

@[simp] theorem pushFrame_c (s : State) (k : IntKind) (r : Word) : (pushFrame k r s).c = s.c := by cases he : s.e <;> simp [pushFrame, he]
@[simp] theorem pushFrame_x (s : State) (k : IntKind) (r : Word) : (pushFrame k r s).x = s.x := by cases he : s.e <;> simp [pushFrame, he]
@[simp] theorem pushFrame_y (s : State) (k : IntKind) (r : Word) : (pushFrame k r s).y = s.y := by cases he : s.e <;> simp [pushFrame, he]
@[simp] theorem pushFrame_d (s : State) (k : IntKind) (r : Word) : (pushFrame k r s).d = s.d := by cases he : s.e <;> simp [pushFrame, he]
@[simp] theorem pushFrame_dbr (s : State) (k : IntKind) (r : Word) : (pushFrame k r s).dbr = s.dbr := by cases he : s.e <;> simp [pushFrame, he]
@[simp] theorem pushFrame_pbr (s : State) (k : IntKind) (r : Word) : (pushFrame k r s).pbr = s.pbr := by cases he : s.e <;> simp [pushFrame, he]
@[simp] theorem pushFrame_pc (s : State) (k : IntKind) (r : Word) : (pushFrame k r s).pc = s.pc := by cases he : s.e <;> simp [pushFrame, he]
@[simp] theorem pushFrame_p (s : State) (k : IntKind) (r : Word) : (pushFrame k r s).p = s.p := by cases he : s.e <;> simp [pushFrame, he]
@[simp] theorem pushFrame_e (s : State) (k : IntKind) (r : Word) : (pushFrame k r s).e = s.e := by cases he : s.e <;> simp [pushFrame, he]
@[simp] theorem pushFrame_nmiPending (s : State) (k : IntKind) (r : Word) : (pushFrame k r s).nmiPending = s.nmiPending := by cases he : s.e <;> simp [pushFrame, he]
@[simp] theorem pushFrame_nmiPrev (s : State) (k : IntKind) (r : Word) : (pushFrame k r s).nmiPrev = s.nmiPrev := by cases he : s.e <;> simp [pushFrame, he]
@[simp] theorem pushFrame_abortPending (s : State) (k : IntKind) (r : Word) : (pushFrame k r s).abortPending = s.abortPending := by cases he : s.e <;> simp [pushFrame, he]
@[simp] theorem pushFrame_waiting (s : State) (k : IntKind) (r : Word) : (pushFrame k r s).waiting = s.waiting := by cases he : s.e <;> simp [pushFrame, he]
@[simp] theorem pushFrame_stopped (s : State) (k : IntKind) (r : Word) : (pushFrame k r s).stopped = s.stopped := by cases he : s.e <;> simp [pushFrame, he]
@[simp] theorem pushFrame_pins (s : State) (k : IntKind) (r : Word) : (pushFrame k r s).pins = s.pins := by cases he : s.e <;> simp [pushFrame, he]
@[simp] theorem pushFrame_input (s : State) (k : IntKind) (r : Word) : (pushFrame k r s).input = s.input := by cases he : s.e <;> simp [pushFrame, he]
@[simp] theorem pushFrame_mxInvalid (s : State) (k : IntKind) (r : Word) : (pushFrame k r s).mxInvalid = s.mxInvalid := by cases he : s.e <;> simp [pushFrame, he]
@[simp] theorem pushFrame_draws (s : State) (k : IntKind) (r : Word) : (pushFrame k r s).draws = s.draws := by cases he : s.e <;> simp [pushFrame, he]

/-! ### enterHandlerMode: writes p, pbr, dbr -/

@[simp] theorem enterHandlerMode_c (s : State) : (enterHandlerMode s).c = s.c := rfl
@[simp] theorem enterHandlerMode_x (s : State) : (enterHandlerMode s).x = s.x := rfl
@[simp] theorem enterHandlerMode_y (s : State) : (enterHandlerMode s).y = s.y := rfl
@[simp] theorem enterHandlerMode_sp (s : State) : (enterHandlerMode s).sp = s.sp := rfl
@[simp] theorem enterHandlerMode_d (s : State) : (enterHandlerMode s).d = s.d := rfl
@[simp] theorem enterHandlerMode_pc (s : State) : (enterHandlerMode s).pc = s.pc := rfl
@[simp] theorem enterHandlerMode_e (s : State) : (enterHandlerMode s).e = s.e := rfl
@[simp] theorem enterHandlerMode_mem (s : State) : (enterHandlerMode s).mem = s.mem := rfl
@[simp] theorem enterHandlerMode_nmiPending (s : State) : (enterHandlerMode s).nmiPending = s.nmiPending := rfl
@[simp] theorem enterHandlerMode_nmiPrev (s : State) : (enterHandlerMode s).nmiPrev = s.nmiPrev := rfl
@[simp] theorem enterHandlerMode_abortPending (s : State) : (enterHandlerMode s).abortPending = s.abortPending := rfl
@[simp] theorem enterHandlerMode_waiting (s : State) : (enterHandlerMode s).waiting = s.waiting := rfl
@[simp] theorem enterHandlerMode_stopped (s : State) : (enterHandlerMode s).stopped = s.stopped := rfl
@[simp] theorem enterHandlerMode_pins (s : State) : (enterHandlerMode s).pins = s.pins := rfl
@[simp] theorem enterHandlerMode_input (s : State) : (enterHandlerMode s).input = s.input := rfl
@[simp] theorem enterHandlerMode_mxInvalid (s : State) : (enterHandlerMode s).mxInvalid = s.mxInvalid := rfl
@[simp] theorem enterHandlerMode_draws (s : State) : (enterHandlerMode s).draws = s.draws := rfl
@[simp] theorem enterHandlerMode_readByte (s : State) (a : Addr) : (enterHandlerMode s).readByte a = s.readByte a := by
  simp [State.readByte]
@[simp] theorem enterHandlerMode_memRead (s : State) (kind : CycleKind) (a : Addr) : (enterHandlerMode s).memRead kind a = s.memRead kind a := by
  simp [State.memRead]

/-! ### clearLatch: writes nmiPending, abortPending -/

@[simp] theorem clearLatch_c (s : State) (k : IntKind) : (clearLatch k s).c = s.c := by cases k <;> rfl
@[simp] theorem clearLatch_x (s : State) (k : IntKind) : (clearLatch k s).x = s.x := by cases k <;> rfl
@[simp] theorem clearLatch_y (s : State) (k : IntKind) : (clearLatch k s).y = s.y := by cases k <;> rfl
@[simp] theorem clearLatch_sp (s : State) (k : IntKind) : (clearLatch k s).sp = s.sp := by cases k <;> rfl
@[simp] theorem clearLatch_d (s : State) (k : IntKind) : (clearLatch k s).d = s.d := by cases k <;> rfl
@[simp] theorem clearLatch_dbr (s : State) (k : IntKind) : (clearLatch k s).dbr = s.dbr := by cases k <;> rfl
@[simp] theorem clearLatch_pbr (s : State) (k : IntKind) : (clearLatch k s).pbr = s.pbr := by cases k <;> rfl
@[simp] theorem clearLatch_pc (s : State) (k : IntKind) : (clearLatch k s).pc = s.pc := by cases k <;> rfl
@[simp] theorem clearLatch_p (s : State) (k : IntKind) : (clearLatch k s).p = s.p := by cases k <;> rfl
@[simp] theorem clearLatch_e (s : State) (k : IntKind) : (clearLatch k s).e = s.e := by cases k <;> rfl
@[simp] theorem clearLatch_mem (s : State) (k : IntKind) : (clearLatch k s).mem = s.mem := by cases k <;> rfl
@[simp] theorem clearLatch_nmiPrev (s : State) (k : IntKind) : (clearLatch k s).nmiPrev = s.nmiPrev := by cases k <;> rfl
@[simp] theorem clearLatch_waiting (s : State) (k : IntKind) : (clearLatch k s).waiting = s.waiting := by cases k <;> rfl
@[simp] theorem clearLatch_stopped (s : State) (k : IntKind) : (clearLatch k s).stopped = s.stopped := by cases k <;> rfl
@[simp] theorem clearLatch_pins (s : State) (k : IntKind) : (clearLatch k s).pins = s.pins := by cases k <;> rfl
@[simp] theorem clearLatch_input (s : State) (k : IntKind) : (clearLatch k s).input = s.input := by cases k <;> rfl
@[simp] theorem clearLatch_mxInvalid (s : State) (k : IntKind) : (clearLatch k s).mxInvalid = s.mxInvalid := by cases k <;> rfl
@[simp] theorem clearLatch_draws (s : State) (k : IntKind) : (clearLatch k s).draws = s.draws := by cases k <;> rfl
@[simp] theorem clearLatch_readByte (s : State) (k : IntKind) (a : Addr) : (clearLatch k s).readByte a = s.readByte a := by
  simp [State.readByte]
@[simp] theorem clearLatch_memRead (s : State) (k : IntKind) (kind : CycleKind) (a : Addr) : (clearLatch k s).memRead kind a = s.memRead kind a := by
  simp [State.memRead]

/-! ### interrupt: writes sp, mem, p, pbr, dbr, pc, nmiPending, abortPending -/

@[simp] theorem interrupt_c (s : State) (k : IntKind) (r : Word) : (interrupt k r s).c = s.c := by simp [interrupt]
@[simp] theorem interrupt_x (s : State) (k : IntKind) (r : Word) : (interrupt k r s).x = s.x := by simp [interrupt]
@[simp] theorem interrupt_y (s : State) (k : IntKind) (r : Word) : (interrupt k r s).y = s.y := by simp [interrupt]
@[simp] theorem interrupt_d (s : State) (k : IntKind) (r : Word) : (interrupt k r s).d = s.d := by simp [interrupt]
@[simp] theorem interrupt_e (s : State) (k : IntKind) (r : Word) : (interrupt k r s).e = s.e := by simp [interrupt]
@[simp] theorem interrupt_nmiPrev (s : State) (k : IntKind) (r : Word) : (interrupt k r s).nmiPrev = s.nmiPrev := by simp [interrupt]
@[simp] theorem interrupt_waiting (s : State) (k : IntKind) (r : Word) : (interrupt k r s).waiting = s.waiting := by simp [interrupt]
@[simp] theorem interrupt_stopped (s : State) (k : IntKind) (r : Word) : (interrupt k r s).stopped = s.stopped := by simp [interrupt]
@[simp] theorem interrupt_pins (s : State) (k : IntKind) (r : Word) : (interrupt k r s).pins = s.pins := by simp [interrupt]
@[simp] theorem interrupt_input (s : State) (k : IntKind) (r : Word) : (interrupt k r s).input = s.input := by simp [interrupt]
@[simp] theorem interrupt_mxInvalid (s : State) (k : IntKind) (r : Word) : (interrupt k r s).mxInvalid = s.mxInvalid := by simp [interrupt]
@[simp] theorem interrupt_draws (s : State) (k : IntKind) (r : Word) : (interrupt k r s).draws = s.draws := by simp [interrupt]

/-! ### returnFromInterrupt: writes sp, p, x, y, pc, pbr -/

@[simp] theorem returnFromInterrupt_c (s : State) : (returnFromInterrupt s).c = s.c := by unfold returnFromInterrupt; dsimp only; split <;> simp
@[simp] theorem returnFromInterrupt_d (s : State) : (returnFromInterrupt s).d = s.d := by unfold returnFromInterrupt; dsimp only; split <;> simp
@[simp] theorem returnFromInterrupt_dbr (s : State) : (returnFromInterrupt s).dbr = s.dbr := by unfold returnFromInterrupt; dsimp only; split <;> simp
@[simp] theorem returnFromInterrupt_e (s : State) : (returnFromInterrupt s).e = s.e := by unfold returnFromInterrupt; dsimp only; split <;> simp
@[simp] theorem returnFromInterrupt_mem (s : State) : (returnFromInterrupt s).mem = s.mem := by unfold returnFromInterrupt; dsimp only; split <;> simp
@[simp] theorem returnFromInterrupt_nmiPending (s : State) : (returnFromInterrupt s).nmiPending = s.nmiPending := by unfold returnFromInterrupt; dsimp only; split <;> simp
@[simp] theorem returnFromInterrupt_nmiPrev (s : State) : (returnFromInterrupt s).nmiPrev = s.nmiPrev := by unfold returnFromInterrupt; dsimp only; split <;> simp
@[simp] theorem returnFromInterrupt_abortPending (s : State) : (returnFromInterrupt s).abortPending = s.abortPending := by unfold returnFromInterrupt; dsimp only; split <;> simp
@[simp] theorem returnFromInterrupt_waiting (s : State) : (returnFromInterrupt s).waiting = s.waiting := by unfold returnFromInterrupt; dsimp only; split <;> simp
@[simp] theorem returnFromInterrupt_stopped (s : State) : (returnFromInterrupt s).stopped = s.stopped := by unfold returnFromInterrupt; dsimp only; split <;> simp
@[simp] theorem returnFromInterrupt_pins (s : State) : (returnFromInterrupt s).pins = s.pins := by unfold returnFromInterrupt; dsimp only; split <;> simp
@[simp] theorem returnFromInterrupt_input (s : State) : (returnFromInterrupt s).input = s.input := by unfold returnFromInterrupt; dsimp only; split <;> simp
@[simp] theorem returnFromInterrupt_mxInvalid (s : State) : (returnFromInterrupt s).mxInvalid = s.mxInvalid := by unfold returnFromInterrupt; dsimp only; split <;> simp
@[simp] theorem returnFromInterrupt_draws (s : State) : (returnFromInterrupt s).draws = s.draws := by unfold returnFromInterrupt; dsimp only; split <;> simp
@[simp] theorem returnFromInterrupt_readByte (s : State) (a : Addr) : (returnFromInterrupt s).readByte a = s.readByte a := by
  simp [State.readByte]
@[simp] theorem returnFromInterrupt_memRead (s : State) (kind : CycleKind) (a : Addr) : (returnFromInterrupt s).memRead kind a = s.memRead kind a := by
  simp [State.memRead]

/-! ### latchNmi: writes nmiPending, nmiPrev -/

@[simp] theorem latchNmi_c (s : State) : s.latchNmi.c = s.c := rfl
@[simp] theorem latchNmi_x (s : State) : s.latchNmi.x = s.x := rfl
@[simp] theorem latchNmi_y (s : State) : s.latchNmi.y = s.y := rfl
@[simp] theorem latchNmi_sp (s : State) : s.latchNmi.sp = s.sp := rfl
@[simp] theorem latchNmi_d (s : State) : s.latchNmi.d = s.d := rfl
@[simp] theorem latchNmi_dbr (s : State) : s.latchNmi.dbr = s.dbr := rfl
@[simp] theorem latchNmi_pbr (s : State) : s.latchNmi.pbr = s.pbr := rfl
@[simp] theorem latchNmi_pc (s : State) : s.latchNmi.pc = s.pc := rfl
@[simp] theorem latchNmi_p (s : State) : s.latchNmi.p = s.p := rfl
@[simp] theorem latchNmi_e (s : State) : s.latchNmi.e = s.e := rfl
@[simp] theorem latchNmi_mem (s : State) : s.latchNmi.mem = s.mem := rfl
@[simp] theorem latchNmi_abortPending (s : State) : s.latchNmi.abortPending = s.abortPending := rfl
@[simp] theorem latchNmi_waiting (s : State) : s.latchNmi.waiting = s.waiting := rfl
@[simp] theorem latchNmi_stopped (s : State) : s.latchNmi.stopped = s.stopped := rfl
@[simp] theorem latchNmi_pins (s : State) : s.latchNmi.pins = s.pins := rfl
@[simp] theorem latchNmi_input (s : State) : s.latchNmi.input = s.input := rfl
@[simp] theorem latchNmi_mxInvalid (s : State) : s.latchNmi.mxInvalid = s.mxInvalid := rfl
@[simp] theorem latchNmi_draws (s : State) : s.latchNmi.draws = s.draws := rfl
@[simp] theorem latchNmi_readByte (s : State) (a : Addr) : s.latchNmi.readByte a = s.readByte a := by
  simp [State.readByte]
@[simp] theorem latchNmi_memRead (s : State) (kind : CycleKind) (a : Addr) : s.latchNmi.memRead kind a = s.memRead kind a := by
  simp [State.memRead]

/-! ### latchAbort: writes abortPending -/

@[simp] theorem latchAbort_c (s : State) : s.latchAbort.c = s.c := rfl
@[simp] theorem latchAbort_x (s : State) : s.latchAbort.x = s.x := rfl
@[simp] theorem latchAbort_y (s : State) : s.latchAbort.y = s.y := rfl
@[simp] theorem latchAbort_sp (s : State) : s.latchAbort.sp = s.sp := rfl
@[simp] theorem latchAbort_d (s : State) : s.latchAbort.d = s.d := rfl
@[simp] theorem latchAbort_dbr (s : State) : s.latchAbort.dbr = s.dbr := rfl
@[simp] theorem latchAbort_pbr (s : State) : s.latchAbort.pbr = s.pbr := rfl
@[simp] theorem latchAbort_pc (s : State) : s.latchAbort.pc = s.pc := rfl
@[simp] theorem latchAbort_p (s : State) : s.latchAbort.p = s.p := rfl
@[simp] theorem latchAbort_e (s : State) : s.latchAbort.e = s.e := rfl
@[simp] theorem latchAbort_mem (s : State) : s.latchAbort.mem = s.mem := rfl
@[simp] theorem latchAbort_nmiPending (s : State) : s.latchAbort.nmiPending = s.nmiPending := rfl
@[simp] theorem latchAbort_nmiPrev (s : State) : s.latchAbort.nmiPrev = s.nmiPrev := rfl
@[simp] theorem latchAbort_waiting (s : State) : s.latchAbort.waiting = s.waiting := rfl
@[simp] theorem latchAbort_stopped (s : State) : s.latchAbort.stopped = s.stopped := rfl
@[simp] theorem latchAbort_pins (s : State) : s.latchAbort.pins = s.pins := rfl
@[simp] theorem latchAbort_input (s : State) : s.latchAbort.input = s.input := rfl
@[simp] theorem latchAbort_mxInvalid (s : State) : s.latchAbort.mxInvalid = s.mxInvalid := rfl
@[simp] theorem latchAbort_draws (s : State) : s.latchAbort.draws = s.draws := rfl
@[simp] theorem latchAbort_readByte (s : State) (a : Addr) : s.latchAbort.readByte a = s.readByte a := by
  simp [State.readByte]
@[simp] theorem latchAbort_memRead (s : State) (kind : CycleKind) (a : Addr) : s.latchAbort.memRead kind a = s.memRead kind a := by
  simp [State.memRead]

/-! ### sample: writes pins, input, mem -/

@[simp] theorem sample_c (s : State) : s.sample.c = s.c := by unfold State.sample; split <;> rfl
@[simp] theorem sample_x (s : State) : s.sample.x = s.x := by unfold State.sample; split <;> rfl
@[simp] theorem sample_y (s : State) : s.sample.y = s.y := by unfold State.sample; split <;> rfl
@[simp] theorem sample_sp (s : State) : s.sample.sp = s.sp := by unfold State.sample; split <;> rfl
@[simp] theorem sample_d (s : State) : s.sample.d = s.d := by unfold State.sample; split <;> rfl
@[simp] theorem sample_dbr (s : State) : s.sample.dbr = s.dbr := by unfold State.sample; split <;> rfl
@[simp] theorem sample_pbr (s : State) : s.sample.pbr = s.pbr := by unfold State.sample; split <;> rfl
@[simp] theorem sample_pc (s : State) : s.sample.pc = s.pc := by unfold State.sample; split <;> rfl
@[simp] theorem sample_p (s : State) : s.sample.p = s.p := by unfold State.sample; split <;> rfl
@[simp] theorem sample_e (s : State) : s.sample.e = s.e := by unfold State.sample; split <;> rfl
@[simp] theorem sample_nmiPending (s : State) : s.sample.nmiPending = s.nmiPending := by unfold State.sample; split <;> rfl
@[simp] theorem sample_nmiPrev (s : State) : s.sample.nmiPrev = s.nmiPrev := by unfold State.sample; split <;> rfl
@[simp] theorem sample_abortPending (s : State) : s.sample.abortPending = s.abortPending := by unfold State.sample; split <;> rfl
@[simp] theorem sample_waiting (s : State) : s.sample.waiting = s.waiting := by unfold State.sample; split <;> rfl
@[simp] theorem sample_stopped (s : State) : s.sample.stopped = s.stopped := by unfold State.sample; split <;> rfl
@[simp] theorem sample_mxInvalid (s : State) : s.sample.mxInvalid = s.mxInvalid := by unfold State.sample; split <;> rfl
@[simp] theorem sample_draws (s : State) : s.sample.draws = s.draws := by unfold State.sample; split <;> rfl

/-! ### resetInit: writes c, x, y, sp, d, dbr, pbr, p, e, nmiPending, nmiPrev, abortPending, waiting, stopped, mxInvalid, draws -/

@[simp] theorem resetInit_pc (s : State) : (resetInit s).pc = s.pc := rfl
@[simp] theorem resetInit_mem (s : State) : (resetInit s).mem = s.mem := rfl
@[simp] theorem resetInit_pins (s : State) : (resetInit s).pins = s.pins := rfl
@[simp] theorem resetInit_input (s : State) : (resetInit s).input = s.input := rfl
@[simp] theorem resetInit_readByte (s : State) (a : Addr) : (resetInit s).readByte a = s.readByte a := by
  simp [State.readByte]
@[simp] theorem resetInit_memRead (s : State) (kind : CycleKind) (a : Addr) : (resetInit s).memRead kind a = s.memRead kind a := by
  simp [State.memRead]

/-! ### resetStep: writes c, x, y, sp, d, dbr, pbr, pc, p, e, nmiPending, nmiPrev, abortPending, waiting, stopped, mxInvalid, draws -/

@[simp] theorem resetStep_mem (s : State) : (resetStep s).mem = s.mem := rfl
@[simp] theorem resetStep_pins (s : State) : (resetStep s).pins = s.pins := rfl
@[simp] theorem resetStep_input (s : State) : (resetStep s).input = s.input := rfl
@[simp] theorem resetStep_readByte (s : State) (a : Addr) : (resetStep s).readByte a = s.readByte a := by
  simp [State.readByte]
@[simp] theorem resetStep_memRead (s : State) (kind : CycleKind) (a : Addr) : (resetStep s).memRead kind a = s.memRead kind a := by
  simp [State.memRead]

/-! ### settleMX: writes mxInvalid, draws -/

@[simp] theorem settleMX_c (s : State) (i : Instr) : (settleMX i s).c = s.c := by unfold settleMX; split <;> rfl
@[simp] theorem settleMX_x (s : State) (i : Instr) : (settleMX i s).x = s.x := by unfold settleMX; split <;> rfl
@[simp] theorem settleMX_y (s : State) (i : Instr) : (settleMX i s).y = s.y := by unfold settleMX; split <;> rfl
@[simp] theorem settleMX_sp (s : State) (i : Instr) : (settleMX i s).sp = s.sp := by unfold settleMX; split <;> rfl
@[simp] theorem settleMX_d (s : State) (i : Instr) : (settleMX i s).d = s.d := by unfold settleMX; split <;> rfl
@[simp] theorem settleMX_dbr (s : State) (i : Instr) : (settleMX i s).dbr = s.dbr := by unfold settleMX; split <;> rfl
@[simp] theorem settleMX_pbr (s : State) (i : Instr) : (settleMX i s).pbr = s.pbr := by unfold settleMX; split <;> rfl
@[simp] theorem settleMX_pc (s : State) (i : Instr) : (settleMX i s).pc = s.pc := by unfold settleMX; split <;> rfl
@[simp] theorem settleMX_p (s : State) (i : Instr) : (settleMX i s).p = s.p := by unfold settleMX; split <;> rfl
@[simp] theorem settleMX_e (s : State) (i : Instr) : (settleMX i s).e = s.e := by unfold settleMX; split <;> rfl
@[simp] theorem settleMX_mem (s : State) (i : Instr) : (settleMX i s).mem = s.mem := by unfold settleMX; split <;> rfl
@[simp] theorem settleMX_nmiPending (s : State) (i : Instr) : (settleMX i s).nmiPending = s.nmiPending := by unfold settleMX; split <;> rfl
@[simp] theorem settleMX_nmiPrev (s : State) (i : Instr) : (settleMX i s).nmiPrev = s.nmiPrev := by unfold settleMX; split <;> rfl
@[simp] theorem settleMX_abortPending (s : State) (i : Instr) : (settleMX i s).abortPending = s.abortPending := by unfold settleMX; split <;> rfl
@[simp] theorem settleMX_waiting (s : State) (i : Instr) : (settleMX i s).waiting = s.waiting := by unfold settleMX; split <;> rfl
@[simp] theorem settleMX_stopped (s : State) (i : Instr) : (settleMX i s).stopped = s.stopped := by unfold settleMX; split <;> rfl
@[simp] theorem settleMX_pins (s : State) (i : Instr) : (settleMX i s).pins = s.pins := by unfold settleMX; split <;> rfl
@[simp] theorem settleMX_input (s : State) (i : Instr) : (settleMX i s).input = s.input := by unfold settleMX; split <;> rfl
@[simp] theorem settleMX_readByte (s : State) (i : Instr) (a : Addr) : (settleMX i s).readByte a = s.readByte a := by
  simp [State.readByte]
@[simp] theorem settleMX_memRead (s : State) (i : Instr) (kind : CycleKind) (a : Addr) : (settleMX i s).memRead kind a = s.memRead kind a := by
  simp [State.memRead]

/-! ### placeByte: writes mem -/

@[simp] theorem placeByte_c (s : State) (k : Nat) (b : Byte) : (placeByte k b s).c = s.c := rfl
@[simp] theorem placeByte_x (s : State) (k : Nat) (b : Byte) : (placeByte k b s).x = s.x := rfl
@[simp] theorem placeByte_y (s : State) (k : Nat) (b : Byte) : (placeByte k b s).y = s.y := rfl
@[simp] theorem placeByte_sp (s : State) (k : Nat) (b : Byte) : (placeByte k b s).sp = s.sp := rfl
@[simp] theorem placeByte_d (s : State) (k : Nat) (b : Byte) : (placeByte k b s).d = s.d := rfl
@[simp] theorem placeByte_dbr (s : State) (k : Nat) (b : Byte) : (placeByte k b s).dbr = s.dbr := rfl
@[simp] theorem placeByte_pbr (s : State) (k : Nat) (b : Byte) : (placeByte k b s).pbr = s.pbr := rfl
@[simp] theorem placeByte_pc (s : State) (k : Nat) (b : Byte) : (placeByte k b s).pc = s.pc := rfl
@[simp] theorem placeByte_p (s : State) (k : Nat) (b : Byte) : (placeByte k b s).p = s.p := rfl
@[simp] theorem placeByte_e (s : State) (k : Nat) (b : Byte) : (placeByte k b s).e = s.e := rfl
@[simp] theorem placeByte_nmiPending (s : State) (k : Nat) (b : Byte) : (placeByte k b s).nmiPending = s.nmiPending := rfl
@[simp] theorem placeByte_nmiPrev (s : State) (k : Nat) (b : Byte) : (placeByte k b s).nmiPrev = s.nmiPrev := rfl
@[simp] theorem placeByte_abortPending (s : State) (k : Nat) (b : Byte) : (placeByte k b s).abortPending = s.abortPending := rfl
@[simp] theorem placeByte_waiting (s : State) (k : Nat) (b : Byte) : (placeByte k b s).waiting = s.waiting := rfl
@[simp] theorem placeByte_stopped (s : State) (k : Nat) (b : Byte) : (placeByte k b s).stopped = s.stopped := rfl
@[simp] theorem placeByte_pins (s : State) (k : Nat) (b : Byte) : (placeByte k b s).pins = s.pins := rfl
@[simp] theorem placeByte_input (s : State) (k : Nat) (b : Byte) : (placeByte k b s).input = s.input := rfl
@[simp] theorem placeByte_mxInvalid (s : State) (k : Nat) (b : Byte) : (placeByte k b s).mxInvalid = s.mxInvalid := rfl
@[simp] theorem placeByte_draws (s : State) (k : Nat) (b : Byte) : (placeByte k b s).draws = s.draws := rfl

/-! ### placeWord: writes mem -/

@[simp] theorem placeWord_c (s : State) (nbits w : Nat) : (placeWord nbits w s).c = s.c := by simp [placeWord]
@[simp] theorem placeWord_x (s : State) (nbits w : Nat) : (placeWord nbits w s).x = s.x := by simp [placeWord]
@[simp] theorem placeWord_y (s : State) (nbits w : Nat) : (placeWord nbits w s).y = s.y := by simp [placeWord]
@[simp] theorem placeWord_sp (s : State) (nbits w : Nat) : (placeWord nbits w s).sp = s.sp := by simp [placeWord]
@[simp] theorem placeWord_d (s : State) (nbits w : Nat) : (placeWord nbits w s).d = s.d := by simp [placeWord]
@[simp] theorem placeWord_dbr (s : State) (nbits w : Nat) : (placeWord nbits w s).dbr = s.dbr := by simp [placeWord]
@[simp] theorem placeWord_pbr (s : State) (nbits w : Nat) : (placeWord nbits w s).pbr = s.pbr := by simp [placeWord]
@[simp] theorem placeWord_pc (s : State) (nbits w : Nat) : (placeWord nbits w s).pc = s.pc := by simp [placeWord]
@[simp] theorem placeWord_p (s : State) (nbits w : Nat) : (placeWord nbits w s).p = s.p := by simp [placeWord]
@[simp] theorem placeWord_e (s : State) (nbits w : Nat) : (placeWord nbits w s).e = s.e := by simp [placeWord]
@[simp] theorem placeWord_nmiPending (s : State) (nbits w : Nat) : (placeWord nbits w s).nmiPending = s.nmiPending := by simp [placeWord]
@[simp] theorem placeWord_nmiPrev (s : State) (nbits w : Nat) : (placeWord nbits w s).nmiPrev = s.nmiPrev := by simp [placeWord]
@[simp] theorem placeWord_abortPending (s : State) (nbits w : Nat) : (placeWord nbits w s).abortPending = s.abortPending := by simp [placeWord]
@[simp] theorem placeWord_waiting (s : State) (nbits w : Nat) : (placeWord nbits w s).waiting = s.waiting := by simp [placeWord]
@[simp] theorem placeWord_stopped (s : State) (nbits w : Nat) : (placeWord nbits w s).stopped = s.stopped := by simp [placeWord]
@[simp] theorem placeWord_pins (s : State) (nbits w : Nat) : (placeWord nbits w s).pins = s.pins := by simp [placeWord]
@[simp] theorem placeWord_input (s : State) (nbits w : Nat) : (placeWord nbits w s).input = s.input := by simp [placeWord]
@[simp] theorem placeWord_mxInvalid (s : State) (nbits w : Nat) : (placeWord nbits w s).mxInvalid = s.mxInvalid := by simp [placeWord]
@[simp] theorem placeWord_draws (s : State) (nbits w : Nat) : (placeWord nbits w s).draws = s.draws := by simp [placeWord]

/-! ### What each update writes -/

@[simp] theorem advance_value (s : State) (n : Nat) : (s.advance n).pc = s.pc + BitVec.ofNat 16 n := rfl
@[simp] theorem jump_value (s : State) (v : Word) : (s.jump v).pc = v := rfl
@[simp] theorem setPbr_value (s : State) (v : Byte) : (s.setPbr v).pbr = v := rfl
@[simp] theorem setDbr_value (s : State) (v : Byte) : (s.setDbr v).dbr = v := rfl
@[simp] theorem setDirect_value (s : State) (v : Word) : (s.setDirect v).d = v := rfl
@[simp] theorem setC16_value (s : State) (v : Word) : (s.setC16 v).c = v := rfl
@[simp] theorem setSp_value (s : State) (v : Word) : (s.setSp v).sp = v := rfl
@[simp] theorem setX_value (s : State) (w : Width) (v : Word) : (s.setX w v).x = trunc w v := rfl
@[simp] theorem setY_value (s : State) (w : Width) (v : Word) : (s.setY w v).y = trunc w v := rfl
@[simp] theorem setA_value_w8 (s : State) (v : Word) : (s.setA .w8 v).c = word (hi s.c) (lo v) := rfl
@[simp] theorem setA_value_w16 (s : State) (v : Word) : (s.setA .w16 v).c = v := rfl
@[simp] theorem setFlag_value (s : State) (i : Nat) (v : Bool) : (s.setFlag i v).p = setBit s.p i v := rfl
@[simp] theorem draw_value (s : State) : s.draw.draws = s.draws + 1 := rfl
@[simp] theorem writeByte_value (s : State) (a : Addr) (v : Byte) :
    (s.writeByte a v).mem = Memory.write s.mem a.toNat v := rfl

/-- What PLP, RTI, REP and SEP leave in P (45_status.md R290). -/
@[simp] theorem writeP_value (s : State) (v : Byte) : (s.writeP v).p = forcedP s.e v := rfl
@[simp] theorem writeP_x_value (s : State) (v : Byte) :
    (s.writeP v).x = narrowIndex ((forcedP s.e v).getLsbD 4) s.x := rfl
@[simp] theorem writeP_y_value (s : State) (v : Byte) :
    (s.writeP v).y = narrowIndex ((forcedP s.e v).getLsbD 4) s.y := rfl

/-- What TXS and TCS leave in S (43_transfer.md R256, R261). -/
@[simp] theorem setSpMode_value (s : State) (v : Word) : (s.setSpMode v).sp = forcedSp s.e v := rfl
@[simp] theorem fixSh_value (s : State) : s.fixSh.sp = forcedSp s.e s.sp := rfl
@[simp] theorem setE_value (s : State) (v : Bool) : (s.setE v).e = v := rfl
@[simp] theorem setE_p_value (s : State) (v : Bool) : (s.setE v).p = forcedP v s.p := rfl
@[simp] theorem setE_sp_value (s : State) (v : Bool) : (s.setE v).sp = forcedSp v s.sp := rfl
@[simp] theorem setE_x_value (s : State) (v : Bool) : (s.setE v).x = narrowIndex v s.x := rfl
@[simp] theorem setE_y_value (s : State) (v : Bool) : (s.setE v).y = narrowIndex v s.y := rfl

@[simp] theorem push8_sp (s : State) (v : Byte) : (s.push8 v).sp = spStep s.e s.sp 0xFFFF := rfl
@[simp] theorem pushN8_sp (s : State) (v : Byte) : (s.pushN8 v).sp = s.sp - 1 := rfl
@[simp] theorem pushN16_sp (s : State) (v : Word) : (s.pushN16 v).sp = s.sp - 1 - 1 := rfl
@[simp] theorem pull8_sp (s : State) : s.pull8.2.sp = spStep s.e s.sp 0x0001 := rfl
@[simp] theorem pullN8_sp (s : State) : s.pullN8.2.sp = s.sp + 1 := rfl
@[simp] theorem pullN16_sp (s : State) : s.pullN16.2.sp = s.sp + 1 + 1 := rfl

end Sys2Proof.Machine
end

