-- ==== Sys2Proof/Laws/Arith.lean ====
section
/-! SUPPORT. One lemma per arithmetic operation of Flags.lean, as numbers: sums, differences, packed decimals, shifts. -/

namespace Sys2Proof.Machine

/-! ### The accumulator at a width -/

@[simp] theorem trunc_setA (s : State) (w : Width) (v : Word) : trunc w (s.setA w v).c = trunc w v := by
  cases w <;> simp [State.setA]
@[simp] theorem hi_setA (s : State) (v : Word) : hi (s.setA .w8 v).c = hi s.c := by simp [State.setA]
@[simp] theorem msb_setA (s : State) (w : Width) (v : Word) : msb w (s.setA w v).c = msb w v := by
  rw [← msb_trunc, trunc_setA, msb_trunc]
@[simp] theorem isZero_setA (s : State) (w : Width) (v : Word) : isZero w (s.setA w v).c = isZero w v := by
  rw [← isZero_trunc, trunc_setA, isZero_trunc]

/-! ### Sums and differences -/

theorem addC_r (w : Width) (a m : Word) (c : Bool) :
   (trunc w (addC w a m c).r).toNat = ((trunc w a).toNat + (trunc w m).toNat + c.toNat) % 2 ^ w.bits := by
  rw [trunc_toNat]; simp only [addC, BitVec.toNat_ofNat]
  cases w <;> simp only [Width.bits] <;> omega

theorem toNat_not (w : Width) (v : Word) : (trunc w (~~~v)).toNat = 2 ^ w.bits - 1 - (trunc w v).toNat := by
  rw [trunc_toNat, trunc_toNat, BitVec.toNat_not]
  cases w <;> simp only [Width.bits] <;> omega

theorem signedOf_eq (w : Width) (v : Word) :
    signedOf w v = (trunc w v).toNat - 2 ^ w.bits * (((trunc w v).toNat / 2 ^ (w.bits - 1) : Nat) : Int) := by
  cases w
  · have := (lo v).isLt
    simp only [signedOf, BitVec.toInt_eq_toNat_cond, Width.bits, trunc_w8, zext_toNat]
    split <;> omega
  · have := v.isLt
    simp only [signedOf, BitVec.toInt_eq_toNat_cond, Width.bits, trunc_w16]
    split <;> omega

/-- A difference, its carry and its overflow as numbers (41_arithmetic_logic.md R224). -/
theorem subC_spec (w : Width) (a m : Word) (c : Bool) :
    let borrow : Int := if c then 0 else 1
    let diff : Int := ((trunc w a).toNat : Int) - ((trunc w m).toNat : Int) - borrow
    let signed : Int := signedOf w a - signedOf w m - borrow
    ((trunc w (subC w a m c).r).toNat : Int) = diff % 2 ^ w.bits ∧ (subC w a m c).c = decide (0 ≤ diff) ∧
     (subC w a m c).v = decide (signed < -(2 ^ (w.bits - 1)) ∨ 2 ^ (w.bits - 1) ≤ signed) := by
  have ha := trunc_lt w a
  have hm := trunc_lt w m
  have hr := addC_r w a (~~~m) c
  have hn := toNat_not w m
  have hv : (subC w a m c).v = (msb w a == msb w (~~~m) && msb w (subC w a m c).r != msb w a) := rfl
  have hcc : (subC w a m c).c = decide (2 ^ w.bits ≤ (trunc w a).toNat + (trunc w (~~~m)).toNat + c.toNat) := rfl
  rw [hv, hcc]
  rw [hn] at hr ⊢
  change (trunc w (subC w a m c).r).toNat = _ at hr
  simp only [msb_eq_decide, signedOf_eq, hr, hn]
  generalize (trunc w a).toNat = A at *
  generalize (trunc w m).toNat = M at *
  have hc : c.toNat = if c = true then 1 else 0 := by cases c <;> rfl
  rw [hc]
  refine ⟨?_, ?_, ?_⟩
  · clear hv hcc hr hn
    cases w <;> simp only [Width.bits] at * <;> cases c <;> simp <;> omega
  · clear hv hcc hr hn
    rw [decide_eq_decide]
    cases w <;> simp only [Width.bits] at * <;> cases c <;> simp <;> omega
  · clear hv hcc hr hn
    rw [Bool.eq_iff_iff]
    have key : ∀ P Q R : Prop, ∀ [Decidable P] [Decidable Q] [Decidable R] (S : Prop) [Decidable S],
        (((P ↔ Q) ∧ ¬ (R ↔ P)) ↔ S) →
        ((decide P == decide Q && decide R != decide P) = true ↔ decide S = true) := by
      intro P Q R _ _ _ S _ h
      simp only [Bool.and_eq_true, beq_iff_eq, bne_iff_ne, ne_eq, decide_eq_decide, decide_eq_true_eq]
      exact h
    apply key
    cases w <;> simp only [Width.bits] at * <;> cases c <;> simp only [if_true, if_false,
      Bool.false_eq_true] <;>
     (constructor
      · rintro ⟨h1, h2⟩; rw [iff_def] at *; simp only [not_and_or, Classical.not_imp] at *; omega
      · intro h; refine ⟨⟨?_, ?_⟩, ?_⟩ <;> omega)

/-! ### Packed decimals -/

theorem fromBcd_toBcd (k n : Nat) : fromBcd k (toBcd k n) = n % 10 ^ k := by
  induction k generalizing n with
  | zero => simp [fromBcd, Nat.mod_one]
  | succ k ih =>
    have h1 : (n % 10 + 16 * toBcd k (n / 10)) % 16 = n % 10 := by omega
    have h2 : (n % 10 + 16 * toBcd k (n / 10)) / 16 = toBcd k (n / 10) := by omega
    simp only [fromBcd, toBcd, h1, h2, ih]
    rw [Nat.pow_succ, Nat.mul_comm (10 ^ k), Nat.mod_mul]

theorem allDigits_toBcd (k n : Nat) : allDigits k (toBcd k n) = true := by
  induction k generalizing n with
  | zero => rfl
  | succ k ih =>
    have h1 : (n % 10 + 16 * toBcd k (n / 10)) % 16 = n % 10 := by omega
    have h2 : (n % 10 + 16 * toBcd k (n / 10)) / 16 = toBcd k (n / 10) := by omega
    simp only [allDigits, toBcd, h1, h2, ih]
    simp; omega

theorem toBcd_lt (k n : Nat) : toBcd k n < 16 ^ k := by
  induction k generalizing n with
  | zero => simp [toBcd]
  | succ k ih => have := ih (n / 10); simp only [toBcd, Nat.pow_succ]; omega

theorem trunc_bcdOf (w : Width) (n : Int) :
    (trunc w (bcdOf w n)).toNat = toBcd (bcdDigits w) (n % 10 ^ bcdDigits w).toNat := by
  have h := toBcd_lt (bcdDigits w) (n % 10 ^ bcdDigits w).toNat
  rw [trunc_toNat, bcdOf, BitVec.toNat_ofNat]
  cases w <;> simp only [bcdDigits, Width.bits] at * <;> omega

theorem decOf_bcdOf (w : Width) (n : Int) : decOf w (bcdOf w n) = n % 10 ^ bcdDigits w := by
  rw [decOf, trunc_bcdOf, fromBcd_toBcd]
  cases w <;> simp only [bcdDigits] <;> omega

theorem validBcd_bcdOf (w : Width) (n : Int) : validBcd w (bcdOf w n) = true := by
  rw [validBcd, trunc_bcdOf, allDigits_toBcd]

theorem validBcd_congr (w : Width) (v u : Word) (h : trunc w v = trunc w u) : validBcd w v = validBcd w u := by
  simp only [validBcd, h]
theorem decOf_congr (w : Width) (v u : Word) (h : trunc w v = trunc w u) : decOf w v = decOf w u := by
  simp only [decOf, h]

/-! ### Shifts and rotates -/

/-- Each shift, as a number: the result and the bit shifted out (42_shift_rmw.md R241 to R244). -/
theorem asl_spec (w : Width) (c : Bool) (m : Word) :
    (trunc w (asl w c m).r).toNat = 2 * (trunc w m).toNat % 2 ^ w.bits ∧
      (asl w c m).c = decide (2 ^ (w.bits - 1) ≤ (trunc w m).toNat) := by
  refine ⟨?_, msb_eq_decide w m⟩
  simp only [asl, trunc_trunc, trunc_toNat, BitVec.toNat_shiftLeft, Nat.shiftLeft_eq]
  cases w <;> simp only [Width.bits] <;> omega

theorem lsr_spec (w : Width) (c : Bool) (m : Word) :
    (trunc w (lsr w c m).r).toNat = (trunc w m).toNat / 2 ∧
      (lsr w c m).c = decide ((trunc w m).toNat % 2 = 1) := by
  constructor
  · have := trunc_lt w m
    simp only [lsr, trunc_toNat w (_ >>> _), BitVec.toNat_ushiftRight, Nat.shiftRight_eq_div_pow]
    cases w <;> simp only [Width.bits] at * <;> omega
  · rw [trunc_toNat]
    simp only [lsr, BitVec.getLsbD, Nat.testBit_zero]
    rw [decide_eq_decide]
    cases w <;> simp only [Width.bits] <;> omega

theorem carryWord_toNat (c : Bool) : ((BitVec.ofBool c).setWidth 16 : Word).toNat = if c then 1 else 0 := by
  cases c <;> rfl

theorem rol_spec (w : Width) (c : Bool) (m : Word) :
    (trunc w (rol w c m).r).toNat = (2 * (trunc w m).toNat + if c then 1 else 0) % 2 ^ w.bits ∧
      (rol w c m).c = decide (2 ^ (w.bits - 1) ≤ (trunc w m).toNat) := by
  refine ⟨?_, msb_eq_decide w m⟩
  have h := asl_spec w c m
  simp only [asl, trunc_trunc] at h
  have h1 : ((BitVec.ofBool c).setWidth 16 : Word).toNat < 2 ^ 1 := by rw [carryWord_toNat]; split <;> omega
  have h2 := Nat.two_pow_add_eq_or_of_lt (i := 1) h1 ((trunc w (m <<< 1)).toNat / 2)
  have h3 : 2 ^ 1 * ((trunc w (m <<< 1)).toNat / 2) = (trunc w (m <<< 1)).toNat := by
    rw [h.1]; cases w <;> simp only [Width.bits] <;> omega
  rw [h3] at h2
  simp only [rol]
  rw [trunc_toNat, BitVec.toNat_or, ← h2, carryWord_toNat, h.1]
  have := trunc_lt w m
  cases w <;> simp only [Width.bits] at * <;> cases c <;> simp

theorem ror_spec (w : Width) (c : Bool) (m : Word) :
    (trunc w (ror w c m).r).toNat = (trunc w m).toNat / 2 + (if c then 1 else 0) * 2 ^ (w.bits - 1) ∧
      (ror w c m).c = decide ((trunc w m).toNat % 2 = 1) := by
  refine ⟨?_, (lsr_spec w c m).2⟩
  have hm := trunc_lt w m
  have h1 : (trunc w m >>> 1).toNat < 2 ^ (w.bits - 1) := by
    rw [BitVec.toNat_ushiftRight, Nat.shiftRight_eq_div_pow]
    cases w <;> simp only [Width.bits] at * <;> omega
  have h2 := Nat.two_pow_add_eq_or_of_lt h1 (if c then 1 else 0)
  have h3 : (((BitVec.ofBool c).setWidth 16 : Word) <<< (w.bits - 1)).toNat = 2 ^ (w.bits - 1) * (if c then 1 else 0) := by
    rw [BitVec.toNat_shiftLeft, carryWord_toNat, Nat.shiftLeft_eq]
    cases w <;> cases c <;> rfl
  simp only [ror]
  rw [trunc_toNat, BitVec.toNat_or, h3, Nat.lor_comm, ← h2, BitVec.toNat_ushiftRight, Nat.shiftRight_eq_div_pow]
  cases w <;> simp only [Width.bits] at * <;> cases c <;> simp <;> omega

/-! ### Increment and decrement -/

theorem incr_toNat (w : Width) (m : Word) : (trunc w (incr w m)).toNat = ((trunc w m).toNat + 1) % 2 ^ w.bits := by
  simp only [incr, trunc_trunc, trunc_toNat, BitVec.toNat_add]
  cases w <;> simp [Width.bits]

theorem decr_toNat (w : Width) (m : Word) :
    (trunc w (decr w m)).toNat = ((trunc w m).toNat + 2 ^ w.bits - 1) % 2 ^ w.bits := by
  simp only [decr, trunc_trunc, trunc_toNat, BitVec.toNat_sub]
  cases w <;> simp [Width.bits] <;> omega

theorem trunc_incr (w : Width) (m : Word) : trunc w (incr w m) = incr w m := by simp [incr]
theorem trunc_decr (w : Width) (m : Word) : trunc w (decr w m) = decr w m := by simp [decr]

end Sys2Proof.Machine
end

