-- ==== Sys2Proof/Laws/Memory.lean ====
section
/-! SUPPORT. The laws of memory: what a read gives after a write, that a write keeps the canonical form, and what
a read uses up of the platform's answers. -/

namespace Sys2Proof.Machine

/-! ### Read after write -/

theorem Memory.read_erase_same (m : Memory) (b : Nat) : Memory.read (m.erase b) b = Config.unlistedByte := by
  induction m with
  | nil => rfl
  | cons c rest ih =>
    obtain ⟨a, v⟩ := c
    by_cases h : a = b <;> simp [Memory.erase, Memory.read, h, ih]

theorem Memory.read_erase_other (m : Memory) (b a : Nat) (h : a ≠ b) : Memory.read (m.erase b) a = Memory.read m a := by
  induction m with
  | nil => rfl
  | cons c rest ih =>
    obtain ⟨k, v⟩ := c
    by_cases hk : k = b
    · subst hk; simp [Memory.erase, Memory.read, ih, h.symm]
    · simp [Memory.erase, Memory.read, hk, ih]

theorem Memory.read_insert_other (m : Memory) (b a : Nat) (v : Byte) (h : a ≠ b) :
    Memory.read (m.insert b v) a = Memory.read m a := by
  induction m with
  | nil => simp [Memory.insert, Memory.read, h.symm]
  | cons c rest ih =>
    obtain ⟨k, u⟩ := c
    by_cases hk : b < k <;> simp [Memory.insert, Memory.read, hk, ih, h.symm]

theorem Memory.read_insert_erase (m : Memory) (b : Nat) (v : Byte) : Memory.read ((m.erase b).insert b v) b = v := by
  induction m with
  | nil => simp [Memory.erase, Memory.insert, Memory.read]
  | cons c rest ih =>
    obtain ⟨k, u⟩ := c
    by_cases hk : k = b
    · simpa [Memory.erase, hk] using ih
    · by_cases hb : b < k <;> simp [Memory.erase, Memory.insert, Memory.read, hk, hb, ih]

/-- Reading an address just written gives the byte written. -/
@[simp] theorem Memory.read_write_same (m : Memory) (b : Nat) (v : Byte) : Memory.read (m.write b v) b = v := by
  unfold Memory.write
  split
  · next h => rw [Memory.read_erase_same, h]
  · exact Memory.read_insert_erase m b v

/-- A write leaves every other address alone. -/
theorem Memory.read_write_other (m : Memory) (b a : Nat) (v : Byte) (h : a ≠ b) :
    Memory.read (m.write b v) a = Memory.read m a := by
  unfold Memory.write
  split
  · exact Memory.read_erase_other m b a h
  · rw [Memory.read_insert_other _ _ _ _ h, Memory.read_erase_other _ _ _ h]

/-- Reading after a write, in one equation. -/
theorem Memory.read_write (m : Memory) (b a : Nat) (v : Byte) :
    Memory.read (m.write b v) a = if a = b then v else Memory.read m a := by
  split
  · next h => subst h; simp
  · next h => exact Memory.read_write_other m b a v h

/-! ### The canonical form -/

theorem Memory.wfFrom_mono (m : Memory) (low low' : Nat) (h : Memory.wfFrom low m = true) (hl : low' ≤ low) :
    Memory.wfFrom low' m = true := by
  cases m with
  | nil => rfl
  | cons c rest =>
    obtain ⟨a, v⟩ := c
    simp only [Memory.wfFrom, Bool.and_eq_true, decide_eq_true_eq] at h ⊢
    exact ⟨⟨⟨by omega, h.1.1.2⟩, h.1.2⟩, h.2⟩

theorem Memory.wfFrom_erase (m : Memory) (low b : Nat) (h : Memory.wfFrom low m = true) :
    Memory.wfFrom low (m.erase b) = true := by
  induction m generalizing low with
  | nil => rfl
  | cons c rest ih =>
    obtain ⟨a, v⟩ := c
    simp only [Memory.wfFrom, Bool.and_eq_true, decide_eq_true_eq] at h
    have hr := ih (a + 1) h.2
    by_cases ha : a = b
    · simpa [Memory.erase, ha] using Memory.wfFrom_mono _ _ low hr (by omega)
    · simp only [Memory.erase, ha, if_false, Memory.wfFrom, Bool.and_eq_true, decide_eq_true_eq]
      exact ⟨h.1, hr⟩

/-- No cell of a list is at the address. -/
def Memory.absent (m : Memory) (b : Nat) : Prop := ∀ c ∈ m, c.1 ≠ b

theorem Memory.absent_erase (m : Memory) (b : Nat) : (m.erase b).absent b := by
  induction m with
  | nil => simp [Memory.erase, Memory.absent]
  | cons c rest ih =>
    obtain ⟨a, v⟩ := c
    by_cases ha : a = b
    · simpa [Memory.erase, ha] using ih
    · intro d hd
      simp only [Memory.erase, ha, if_false, List.mem_cons] at hd
      rcases hd with rfl | hd
      · exact ha
      · exact ih d hd

theorem Memory.wfFrom_insert (m : Memory) (low b : Nat) (v : Byte) (h : Memory.wfFrom low m = true) (hl : low ≤ b)
    (hb : b < 2 ^ 24) (hv : v ≠ Config.unlistedByte) (ha : m.absent b) : Memory.wfFrom low (m.insert b v) = true := by
  induction m generalizing low with
  | nil => simp [Memory.insert, Memory.wfFrom, hl, hv]; omega
  | cons c rest ih =>
    obtain ⟨k, u⟩ := c
    have hk : k ≠ b := ha (k, u) (by simp)
    have hrest : Memory.absent rest b := fun d hd => ha d (by simp [hd])
    simp only [Memory.wfFrom, Bool.and_eq_true, decide_eq_true_eq] at h
    by_cases hbk : b < k
    · simp only [Memory.insert, hbk, if_true, Memory.wfFrom, Bool.and_eq_true, decide_eq_true_eq]
      exact ⟨⟨⟨hl, hb⟩, hv⟩, ⟨⟨⟨by omega, h.1.1.2⟩, h.1.2⟩, h.2⟩⟩
    · simp only [Memory.insert, hbk, if_false, Memory.wfFrom, Bool.and_eq_true, decide_eq_true_eq]
      exact ⟨h.1, ih (k + 1) h.2 (by omega) hrest⟩

/-- A write below 2^24 keeps the canonical form. -/
theorem Memory.wf_write (m : Memory) (b : Nat) (v : Byte) (h : m.wf = true) (hb : b < 2 ^ 24) :
    (m.write b v).wf = true := by
  unfold Memory.wf Memory.write at *
  split
  · exact Memory.wfFrom_erase m 0 b h
  · next hv =>
    exact Memory.wfFrom_insert _ 0 b v (Memory.wfFrom_erase m 0 b h) (by omega) hb hv (Memory.absent_erase m b)

/-- The platform's own changes keep the canonical form. -/
theorem Memory.wf_change (m : Memory) (cs : List (Addr × Byte)) (h : m.wf = true) : (m.change cs).wf = true := by
  unfold Memory.change
  induction cs generalizing m with
  | nil => exact h
  | cons c rest ih => exact ih _ (Memory.wf_write m _ c.2 h (by exact c.1.isLt))

theorem Memory.wf_nil : Memory.wf [] = true := rfl

/-! ### The same through State -/

@[simp] theorem readByte_writeByte_same (s : State) (a : Addr) (v : Byte) : (s.writeByte a v).readByte a = v := by
  simp [State.readByte, State.writeByte]

theorem readByte_writeByte_other (s : State) (a b : Addr) (v : Byte) (h : b ≠ a) :
    (s.writeByte a v).readByte b = s.readByte b := by
  have : b.toNat ≠ a.toNat := fun e => h (BitVec.eq_of_toNat_eq e)
  simp [State.readByte, State.writeByte, Memory.read_write_other, this]

/-- Reading a byte after a write, in one equation. -/
theorem readByte_writeByte (s : State) (a b : Addr) (v : Byte) :
    (s.writeByte a v).readByte b = if b = a then v else s.readByte b := by
  split
  · next h => subst h; simp
  · next h => exact readByte_writeByte_other s a b v h

theorem wf_writeByte (s : State) (a : Addr) (v : Byte) (h : Memory.wf s.mem = true) :
    Memory.wf (s.writeByte a v).mem = true := Memory.wf_write _ _ _ h (by exact a.isLt)

/-- What memory holds depends on memory alone. -/
theorem readByte_congr (s t : State) (h : t.mem = s.mem) (a : Addr) : t.readByte a = s.readByte a := by
  simp [State.readByte, h]

/-! ### What a read cycle gets -/

/-- A read gets the platform's answer, else the byte memory holds. -/
theorem memRead_eq (s : State) (k : CycleKind) (a : Addr) :
    s.memRead k a = (answerFor s.pins.answers k a).getD (s.readByte a) := rfl

/-- A read the platform does not answer itself gets the byte memory holds. -/
theorem memRead_plain (s : State) (k : CycleKind) (a : Addr) (h : answerFor s.pins.answers k a = none) :
    s.memRead k a = s.readByte a := by rw [memRead_eq, h]; rfl

/-- With the same answers, a read changes only where memory changes. -/
theorem memRead_congr (s t : State) (hp : t.pins = s.pins) (k : CycleKind) (a : Addr)
    (h : t.readByte a = s.readByte a) : t.memRead k a = s.memRead k a := by
  rw [memRead_eq, memRead_eq, hp, h]

/-- A store is seen by the reads of its address that the platform does not answer itself. -/
theorem memRead_writeByte (s : State) (a b : Addr) (v : Byte) (k : CycleKind) :
    (s.writeByte a v).memRead k b = if b = a ∧ answerFor s.pins.answers k b = none then v else s.memRead k b := by
  rw [memRead_eq, memRead_eq, readByte_writeByte]
  change (answerFor s.pins.answers k b).getD _ = _
  cases answerFor s.pins.answers k b <;> simp

/-! ### What a read leaves of the platform's answers -/

/-- A read uses up no answer for another kind or another address. -/
theorem answerFor_useAnswer_other (an : List Answer) (k k' : CycleKind) (a a' : Addr) (h : (k', a') ≠ (k, a)) :
    answerFor (useAnswer an k a) k' a' = answerFor an k' a' := by
  induction an with
  | nil => rfl
  | cons x rest ih =>
    by_cases hx : x.kind = k ∧ x.addr = a
    · have hn : ¬(x.kind = k' ∧ x.addr = a') := fun g => h (by rw [← g.1, ← g.2, hx.1, hx.2])
      by_cases hr : (answerFor rest k a).isSome = true <;> simp [useAnswer, answerFor, hx.1, hx.2, hr]
      exact fun g e => absurd (by rw [g, e]) h
    · simp only [useAnswer, if_neg hx, answerFor, ih]

/-- The answers for one kind of cycle. -/
def ofKind (k : CycleKind) (an : List Answer) : List Answer := an.filter fun x => x.kind = k

@[simp] theorem answerFor_ofKind (an : List Answer) (k : CycleKind) (a : Addr) :
    answerFor (ofKind k an) k a = answerFor an k a := by
  induction an with
  | nil => rfl
  | cons x rest ih => by_cases hx : x.kind = k <;> simp_all [ofKind, answerFor]

/-- What a read of a kind gets depends on the answers for that kind. -/
theorem answerFor_congr (an an' : List Answer) (k : CycleKind) (h : ofKind k an = ofKind k an') (a : Addr) :
    answerFor an k a = answerFor an' k a := by rw [← answerFor_ofKind, h, answerFor_ofKind]

@[simp] theorem ofKind_useAnswer_same (an : List Answer) (k : CycleKind) (a : Addr) :
    ofKind k (useAnswer an k a) = useAnswer (ofKind k an) k a := by
  induction an with
  | nil => rfl
  | cons x rest ih =>
    have ha := answerFor_ofKind rest k a
    by_cases hx : x.kind = k
    · by_cases hy : x.addr = a
      · by_cases hr : (answerFor rest k a).isSome = true <;> simp_all [ofKind, useAnswer]
      · simp_all [ofKind, useAnswer]
    · simp_all [ofKind, useAnswer]

theorem ofKind_useAnswer_other (an : List Answer) (k k' : CycleKind) (a : Addr) (h : k ≠ k') :
    ofKind k (useAnswer an k' a) = ofKind k an := by
  induction an with
  | nil => rfl
  | cons x rest ih =>
    by_cases hx : x.kind = k' ∧ x.addr = a
    · by_cases hr : (answerFor rest k' a).isSome = true <;> simp [ofKind, useAnswer, hx.1, hx.2, hr, Ne.symm h]
    · simp only [useAnswer, if_neg hx]
      by_cases hy : x.kind = k <;> simp_all [ofKind]

end Sys2Proof.Machine
end

