-- ==== Sys2Proof/Laws/Ops.lean ====
section
/-! SUPPORT. One lemma per shared operation of Ops.lean, saying what it does: flags, data accesses, stack, interrupts. -/

namespace Sys2Proof.Machine

/-! ### Flags -/

/-- A mask without bit `i` does not see a write of bit `i`. -/
@[simp] theorem setBit_and (b m : Byte) (i : Nat) (v : Bool) (h : m.getLsbD i = false) : setBit b i v &&& m = b &&& m := by
  apply BitVec.eq_of_getLsbD_eq
  intro j hj
  by_cases hij : j = i
  · subst hij; simp only [BitVec.getLsbD_and, h, Bool.and_false]
  · simp only [BitVec.getLsbD_and, setBit_getLsbD _ _ _ _ hj, hij, if_false]

/-- Bit `j` of P after bit `i` was written. -/
@[simp] theorem setBit_getElem (b : Byte) (i j : Nat) (v : Bool) (hj : j < 8) :
    (setBit b i v)[j] = if j = i then v else b[j] := by
  simpa only [BitVec.getLsbD_eq_getElem hj] using setBit_getLsbD b i j v hj

@[simp] theorem setNZ_p (s : State) (w : Width) (v : Word) :
    (s.setNZ w v).p = setBit (setBit s.p 7 (msb w v)) 1 (isZero w v) := rfl
@[simp] theorem setN_p (s : State) (v : Bool) : (s.setN v).p = setBit s.p 7 v := rfl
@[simp] theorem setV_p (s : State) (v : Bool) : (s.setV v).p = setBit s.p 6 v := rfl
@[simp] theorem setD_p (s : State) (v : Bool) : (s.setD v).p = setBit s.p 3 v := rfl
@[simp] theorem setI_p (s : State) (v : Bool) : (s.setI v).p = setBit s.p 2 v := rfl
@[simp] theorem setZ_p (s : State) (v : Bool) : (s.setZ v).p = setBit s.p 1 v := rfl
@[simp] theorem setC_p (s : State) (v : Bool) : (s.setC v).p = setBit s.p 0 v := rfl



theorem wA_eq_w8 (s : State) : s.wA = .w8 ↔ s.fM = true := by unfold State.wA; cases s.fM <;> simp
theorem wA_eq_w16 (s : State) : s.wA = .w16 ↔ s.fM = false := by unfold State.wA; cases s.fM <;> simp
theorem wX_eq_w8 (s : State) : s.wX = .w8 ↔ s.fX = true := by unfold State.wX; cases s.fX <;> simp
theorem wX_eq_w16 (s : State) : s.wX = .w16 ↔ s.fX = false := by unfold State.wX; cases s.fX <;> simp

/-! ### Branch targets (31_addressing_modes.md R150, R151) -/

theorem relTarget_toNat (s : State) (off : Byte) :
    ((relTarget s off).toNat : Int) = (s.pc.toNat + 2 + off.toInt) % 65536 := by
  have h := toNat_eq_toInt_emod (sext off)
  rw [sext_toInt] at h
  unfold relTarget
  rw [BitVec.toNat_add, BitVec.toNat_add]
  simp only [Int.natCast_emod, Int.natCast_add, h]
  simp

theorem relLongTarget_toNat (s : State) (off : Word) :
    ((relLongTarget s off).toNat : Int) = (s.pc.toNat + 3 + off.toInt) % 65536 := by
  have h := toNat_eq_toInt_emod off
  unfold relLongTarget
  rw [BitVec.toNat_add, BitVec.toNat_add]
  simp only [Int.natCast_emod, Int.natCast_add, h]
  simp

/-! ### Data accesses -/

theorem readByte_writeLoc_other (s : State) (w : Width) (l : Loc) (v : Word) (a : Addr) (h : a ∉ l.bytes w) :
    (s.writeLoc w l v).readByte a = s.readByte a := by
  cases w <;> simp_all [Loc.bytes, State.writeLoc, readByte_writeByte]

theorem readByte_writeBack_other (s : State) (w : Width) (l : Loc) (v : Word) (a : Addr) (h : a ∉ l.bytes w) :
    (s.writeBack w l v).readByte a = s.readByte a := by
  cases w <;> simp_all [Loc.bytes, State.writeBack, readByte_writeByte]

@[simp] theorem readByte_writeLoc_a0 (s : State) (w : Width) (l : Loc) (v : Word) :
    (s.writeLoc w l v).readByte l.a0 = lo v := by
  have := a1_ne_a0 l
  cases w <;> simp [State.writeLoc, readByte_writeByte, this.symm]

@[simp] theorem readByte_writeLoc_a1 (s : State) (l : Loc) (v : Word) :
    (s.writeLoc .w16 l v).readByte l.a1 = hi v := by
  simp [State.writeLoc]

/-- The same bytes are stored in either order. -/
theorem readByte_writeBack (s : State) (w : Width) (l : Loc) (v : Word) (a : Addr) :
    (s.writeBack w l v).readByte a = (s.writeLoc w l v).readByte a := by
  have := a1_ne_a0 l
  cases w
  · rfl
  · simp only [State.writeBack, State.writeLoc, readByte_writeByte]
    by_cases h0 : a = l.a0 <;> by_cases h1 : a = l.a1 <;> simp_all

/-- A read depends on the locator and on the bytes there alone. -/
theorem readLoc_congr (s t : State) (w : Width) (l : Loc) (h : ∀ a ∈ l.bytes w, t.readByte a = s.readByte a) :
    t.readLoc w l = s.readLoc w l := by
  cases w <;> simp_all [Loc.bytes, State.readLoc]

/-- Reading a datum just written gives its value at the width. -/
@[simp] theorem readLoc_writeLoc (s : State) (w : Width) (l : Loc) (v : Word) :
    (s.writeLoc w l v).readLoc w l = trunc w v := by
  cases w <;> simp [State.readLoc]

@[simp] theorem readLoc_writeBack (s : State) (w : Width) (l : Loc) (v : Word) :
    (s.writeBack w l v).readLoc w l = trunc w v := by
  rw [readLoc_congr (s.writeLoc w l v) (s.writeBack w l v) w l (fun a _ => readByte_writeBack s w l v a),
    readLoc_writeLoc]

/-- A datum the platform does not answer itself is the one memory holds. -/
theorem loadLoc_plain (s : State) (k : CycleKind) (w : Width) (l : Loc)
    (h : ∀ a, answerFor s.pins.answers k a = none) : s.loadLoc k w l = s.readLoc w l := by
  cases w <;> simp only [State.loadLoc, State.readLoc, memRead_plain s k _ (h _)]

/-! ### The stack -/

/-- Two different stack addresses within 256 bytes below S: the pushes of one frame do not meet. -/
theorem spAfterPush_ne (s : State) (j k : Nat) (hj : j < 256) (hk : k < 256) (h : j ≠ k) :
    spAfterPush s j ≠ spAfterPush s k := by
  unfold spAfterPush
  cases s.e
  · simp only [Bool.false_eq_true, if_false]; bv_omega
  · simp only [if_true, ne_eq, word_eq_iff, true_and]; bv_omega

theorem spAfterPush_zero (s : State) : spAfterPush s 0 = s.sp := by
  unfold spAfterPush; cases s.e <;> simp

/-- S after one more push. -/
theorem spStep_push (s : State) (k : Nat) : spStep s.e (spAfterPush s k) 0xFFFF = spAfterPush s (k + 1) := by
  unfold spAfterPush spStep
  cases s.e
  · simp only [Bool.false_eq_true, if_false]; bv_omega
  · simp only [if_true, hi_word, lo_word, word_eq_iff, true_and]
    rw [show lo 0xFFFF = 0xFF from rfl]; bv_omega

theorem spAfterPull_zero (s : State) : spAfterPull s 0 = s.sp := by
  unfold spAfterPull; cases s.e <;> simp

/-- S after one more pull. -/
theorem spStep_pull (s : State) (k : Nat) : spStep s.e (spAfterPull s k) 0x0001 = spAfterPull s (k + 1) := by
  unfold spAfterPull spStep
  cases s.e
  · simp only [Bool.false_eq_true, if_false]; bv_omega
  · simp only [if_true, hi_word, lo_word, word_eq_iff, true_and]
    rw [show lo 0x0001 = 0x01 from rfl]; bv_omega

/-- A one-byte push: S moves one down and the byte is where S was (00_scope.md R10). -/
theorem push8_sp_eq (s : State) (v : Byte) : (s.push8 v).sp = spAfterPush s 1 := by
  rw [push8_sp, ← spAfterPush_zero s, spStep_push]

theorem push8_readByte (s : State) (v : Byte) (a : Addr) :
    (s.push8 v).readByte a = if a = bank0 s.sp then v else s.readByte a :=
  readByte_writeByte s (bank0 s.sp) a v

theorem spAfterPush_push8 (s : State) (v : Byte) (k : Nat) : spAfterPush (s.push8 v) k = spAfterPush s (k + 1) := by
  have h := push8_sp_eq s v
  unfold spAfterPush at h ⊢
  rw [push8_e, h]
  cases s.e
  · simp only [Bool.false_eq_true, if_false]; bv_omega
  · simp only [if_true, hi_word, lo_word, word_eq_iff, true_and]; bv_omega

/-- A two-byte push: the high byte where S was, the low byte below it. -/
theorem push16_sp_eq (s : State) (v : Word) : (s.push16 v).sp = spAfterPush s 2 := by
  unfold State.push16; rw [push8_sp_eq, spAfterPush_push8]

theorem spAfterPush_push16 (s : State) (v : Word) (k : Nat) : spAfterPush (s.push16 v) k = spAfterPush s (k + 2) := by
  unfold State.push16; rw [spAfterPush_push8, spAfterPush_push8]

theorem push16_readByte (s : State) (v : Word) (a : Addr) :
    (s.push16 v).readByte a =
      if a = bank0 (spAfterPush s 1) then lo v else if a = bank0 s.sp then hi v else s.readByte a := by
  unfold State.push16; rw [push8_readByte, push8_readByte, push8_sp_eq]

/-- The pushes with 16-bit arithmetic on S. -/
theorem pushN8_readByte (s : State) (v : Byte) (a : Addr) :
    (s.pushN8 v).readByte a = if a = bank0 s.sp then v else s.readByte a :=
  readByte_writeByte s (bank0 s.sp) a v

theorem pushN16_readByte (s : State) (v : Word) (a : Addr) :
    (s.pushN16 v).readByte a =
      if a = bank0 (s.sp - 1) then lo v else if a = bank0 s.sp then hi v else s.readByte a := by
  unfold State.pushN16; rw [pushN8_readByte, pushN8_readByte, pushN8_sp]

@[simp] theorem bank0_eq_iff (v w : Word) : bank0 v = bank0 w ↔ v = w := by simp [bank0]

/-- A one-byte pull: S moves one up and the byte there is pulled. -/
theorem pull8_sp_eq (s : State) : s.pull8.2.sp = spAfterPull s 1 := by
  rw [pull8_sp, ← spAfterPull_zero s, spStep_pull]

theorem pull8_value (s : State) : s.pull8.1 = s.memRead .data (bank0 (spAfterPull s 1)) := by
  rw [← pull8_sp_eq]; rfl

theorem spAfterPull_congr (s t : State) (h : t.sp = s.sp) (he : t.e = s.e) (k : Nat) : spAfterPull t k = spAfterPull s k := by
  unfold spAfterPull; rw [h, he]

theorem spAfterPull_pull8 (s : State) (k : Nat) : spAfterPull s.pull8.2 k = spAfterPull s (k + 1) := by
  have h := pull8_sp_eq s
  unfold spAfterPull at h ⊢
  rw [pull8_e, h]
  cases s.e
  · simp only [Bool.false_eq_true, if_false]; bv_omega
  · simp only [if_true, hi_word, lo_word, word_eq_iff, true_and]; bv_omega

/-- A two-byte pull: the low byte first. -/
theorem pull16_sp_eq (s : State) : s.pull16.2.sp = spAfterPull s 2 := by
  unfold State.pull16; dsimp only; rw [pull8_sp_eq, spAfterPull_pull8]

theorem spAfterPull_pull16 (s : State) (k : Nat) : spAfterPull s.pull16.2 k = spAfterPull s (k + 2) := by
  unfold State.pull16; dsimp only; rw [spAfterPull_pull8, spAfterPull_pull8]

theorem pull16_value (s : State) :
    s.pull16.1 = word (s.memRead .data (bank0 (spAfterPull s 2))) (s.memRead .data (bank0 (spAfterPull s 1))) := by
  unfold State.pull16; dsimp only
  rw [pull8_value, pull8_value, spAfterPull_pull8, pull8_memRead]

theorem pullN16_value (s : State) :
    s.pullN16.1 = word (s.memRead .data (bank0 (s.sp + 2))) (s.memRead .data (bank0 (s.sp + 1))) := by
  have h : s.sp + 1 + 1 = s.sp + 2 := by bv_omega
  change word (s.memRead .data (addr 0 (s.sp + 1 + 1))) (s.memRead .data (addr 0 (s.sp + 1))) = _
  rw [h]; rfl

theorem pullN8_value (s : State) : s.pullN8.1 = s.memRead .data (bank0 (s.sp + 1)) := rfl

/-- A pull at a width. -/
theorem pull_w8 (s : State) : s.pull .w8 = (zext s.pull8.1, s.pull8.2) := rfl
theorem pull_w16 (s : State) : s.pull .w16 = s.pull16 := rfl

/-! ### Interrupts -/

/-- S after the frame of an interrupt: three bytes lower in emulation mode, four in native mode. -/
theorem pushFrame_sp (k : IntKind) (r : Word) (s : State) :
    (pushFrame k r s).sp = spAfterPush s (if s.e then 3 else 4) := by
  cases h : s.e <;> simp only [pushFrame, h, Bool.false_eq_true, if_true, if_false] <;>
    rw [push8_sp_eq, spAfterPush_push16]
  rw [spAfterPush_push8]

/-- The bytes of an emulation-mode frame. -/
theorem pushFrame_readByte_e (k : IntKind) (r : Word) (s : State) (h : s.e = true) (a : Addr) :
    (pushFrame k r s).readByte a =
      if a = bank0 (spAfterPush s 2) then stackedP s k else if a = bank0 (spAfterPush s 1) then lo r
      else if a = bank0 s.sp then hi r else s.readByte a := by
  simp only [pushFrame, h, if_true]
  rw [push8_readByte, push16_sp_eq, push16_readByte]

/-- The bytes of a native-mode frame. -/
theorem pushFrame_readByte_n (k : IntKind) (r : Word) (s : State) (h : s.e = false) (a : Addr) :
    (pushFrame k r s).readByte a =
      if a = bank0 (s.sp - 3) then stackedP s k else if a = bank0 (s.sp - 2) then lo r
      else if a = bank0 (s.sp - 1) then hi r else if a = bank0 s.sp then s.pbr else s.readByte a := by
  have hk : ∀ k, spAfterPush s k = s.sp - BitVec.ofNat 16 k := by intro k; simp [spAfterPush, h]
  simp only [pushFrame, h, Bool.false_eq_true, if_false]
  rw [push8_readByte, push16_readByte, push8_readByte, push16_sp_eq, push8_sp_eq, spAfterPush_push8, spAfterPush_push8]
  simp only [hk]; rfl

@[simp] theorem interrupt_readByte (k : IntKind) (r : Word) (s : State) (a : Addr) :
    (interrupt k r s).readByte a = (pushFrame k r s).readByte a := by simp [interrupt]

theorem interrupt_sp (k : IntKind) (r : Word) (s : State) : (interrupt k r s).sp = (pushFrame k r s).sp := by
  simp [interrupt]

theorem interrupt_p (k : IntKind) (r : Word) (s : State) : (interrupt k r s).p = setBit (setBit s.p 3 false) 2 true := by
  simp [interrupt, enterHandlerMode]

theorem interrupt_pbr (k : IntKind) (r : Word) (s : State) : (interrupt k r s).pbr = 0 := by
  simp only [interrupt, clearLatch_pbr, jump_pbr]; rfl

theorem interrupt_dbr (k : IntKind) (r : Word) (s : State) : (interrupt k r s).dbr = if s.e then 0 else s.dbr := by
  simp only [interrupt, clearLatch_dbr, jump_dbr, enterHandlerMode, setDbr_value, pushFrame_e, pushFrame_dbr]

theorem interrupt_pc (k : IntKind) (r : Word) (s : State) :
    (interrupt k r s).pc = (interrupt k r s).readVector (k.vector s.e) := by
  simp [interrupt, State.readVector]

theorem interrupt_nmiPending (k : IntKind) (r : Word) (s : State) :
    (interrupt k r s).nmiPending = (s.nmiPending && k != .nmi) := by
  cases k <;> simp [interrupt, clearLatch]

theorem interrupt_abortPending (k : IntKind) (r : Word) (s : State) :
    (interrupt k r s).abortPending = (s.abortPending && k != .abort) := by
  cases k <;> simp [interrupt, clearLatch]

/-! ### The canonical form of memory: every operation that stores keeps it -/

theorem wf_writeLoc (s : State) (w : Width) (l : Loc) (v : Word) (h : Memory.wf s.mem = true) :
    Memory.wf (s.writeLoc w l v).mem = true := by
  cases w
  · exact wf_writeByte _ _ _ h
  · exact wf_writeByte _ _ _ (wf_writeByte _ _ _ h)

theorem wf_writeBack (s : State) (w : Width) (l : Loc) (v : Word) (h : Memory.wf s.mem = true) :
    Memory.wf (s.writeBack w l v).mem = true := by
  cases w
  · exact wf_writeByte _ _ _ h
  · exact wf_writeByte _ _ _ (wf_writeByte _ _ _ h)

theorem wf_push8 (s : State) (v : Byte) (h : Memory.wf s.mem = true) : Memory.wf (s.push8 v).mem = true :=
  wf_writeByte _ _ _ h

theorem wf_push16 (s : State) (v : Word) (h : Memory.wf s.mem = true) : Memory.wf (s.push16 v).mem = true :=
  wf_push8 _ _ (wf_push8 _ _ h)

theorem wf_pushN8 (s : State) (v : Byte) (h : Memory.wf s.mem = true) : Memory.wf (s.pushN8 v).mem = true :=
  wf_writeByte _ _ _ h

theorem wf_pushN16 (s : State) (v : Word) (h : Memory.wf s.mem = true) : Memory.wf (s.pushN16 v).mem = true :=
  wf_pushN8 _ _ (wf_pushN8 _ _ h)

theorem wf_pushFrame (k : IntKind) (r : Word) (s : State) (h : Memory.wf s.mem = true) :
    Memory.wf (pushFrame k r s).mem = true := by
  unfold pushFrame
  refine wf_push8 _ _ (wf_push16 _ _ ?_)
  split
  · exact h
  · exact wf_push8 _ _ h

theorem wf_interrupt (k : IntKind) (r : Word) (s : State) (h : Memory.wf s.mem = true) :
    Memory.wf (interrupt k r s).mem = true := by
  have hm : (interrupt k r s).mem = (pushFrame k r s).mem := by simp [interrupt]
  rw [hm]; exact wf_pushFrame k r s h

theorem wf_blockMove (d : Word) (dba sba : Byte) (s : State) (h : Memory.wf s.mem = true) :
    Memory.wf (blockMove d dba sba s).mem = true := by
  have hm : (blockMove d dba sba s).mem = ((s.setDbr dba).writeByte (addr dba s.y) (s.memRead .data (addr sba s.x))).mem := by
    unfold blockMove; dsimp only; split <;> simp
  rw [hm]; exact wf_writeByte _ _ _ h

theorem wf_placeWord (nbits w : Nat) (s : State) (h : Memory.wf s.mem = true) :
    Memory.wf (placeWord nbits w s).mem = true :=
  wf_writeByte _ _ _ (wf_writeByte _ _ _ (wf_writeByte _ _ _ (wf_writeByte _ _ _ h)))

/-- Memory at reset has the canonical form. -/
theorem wf_reset : Memory.wf State.reset.mem = true := rfl

end Sys2Proof.Machine
end

