-- ==== Sys2Proof/Laws/Bus.lean ====
section
/-! SUPPORT. What each kind of bus cycle does to memory, the same for the lists of cycles the instructions are made of, and
how many they are. What they read is in BusReads.lean. -/

namespace Sys2Proof.Machine

/-! ### One cycle -/

@[simp] theorem apply_opcodeCycle (s : State) (m : List Host.Cell) : (opcodeCycle s).apply m = m := rfl
@[simp] theorem apply_programCycle (s : State) (a : Addr) (m : List Host.Cell) : (programCycle s a).apply m = m := rfl
@[simp] theorem apply_operandCycle (s : State) (k : Nat) (m : List Host.Cell) : (operandCycle s k).apply m = m := rfl
@[simp] theorem apply_internalCycle (a : Addr) (m : List Host.Cell) : (internalCycle a).apply m = m := rfl
@[simp] theorem apply_internalAt (s : State) (k : Nat) (m : List Host.Cell) : (internalAt s k).apply m = m := rfl
@[simp] theorem apply_readCycle (s : State) (a : Addr) (m : List Host.Cell) : (readCycle s a).apply m = m := rfl
@[simp] theorem apply_lockedReadCycle (s : State) (a : Addr) (m : List Host.Cell) :
    (lockedReadCycle s a).apply m = m := rfl
@[simp] theorem apply_leadInCycle (a : Addr) (m : List Host.Cell) : (leadInCycle a).apply m = m := rfl
@[simp] theorem apply_vectorCycle (s : State) (a : Addr) (m : List Host.Cell) : (vectorCycle s a).apply m = m := rfl
@[simp] theorem apply_writeCycle (a : Addr) (v : Byte) (m : List Host.Cell) :
    (writeCycle a v).apply m = Memory.write m a.toNat v := rfl
@[simp] theorem apply_locked (c : BusCycle) (m : List Host.Cell) : c.locked.apply m = c.apply m := rfl
@[simp] theorem apply_modifyCycle (s : State) (w : Width) (l : Loc) (r : Word) (m : List Host.Cell) :
    (modifyCycle s w l r).apply m = m := by
  unfold modifyCycle; cases w <;> cases s.e <;> rfl

/-! ### Lists of cycles -/

/-- A list of cycles that changes no memory. -/
def Quiet (cs : List BusCycle) : Prop := ∀ c ∈ cs, ∀ m, c.apply m = m

theorem applyAll_quiet (cs : List BusCycle) (m : List Host.Cell) (h : Quiet cs) : applyCycles m cs = m := by
  induction cs generalizing m with
  | nil => rfl
  | cons c rest ih =>
    change applyCycles (c.apply m) rest = m
    rw [h c (by simp) m]; exact ih _ (fun d hd => h d (by simp [hd]))

@[simp] theorem quiet_nil : Quiet [] := fun _ h => absurd h (by simp)

@[simp] theorem quiet_cons (c : BusCycle) (cs : List BusCycle) : Quiet (c :: cs) ↔ (∀ m, c.apply m = m) ∧ Quiet cs := by
  simp [Quiet]

@[simp] theorem quiet_append (cs ds : List BusCycle) : Quiet (cs ++ ds) ↔ Quiet cs ∧ Quiet ds := by
  simp only [Quiet, List.mem_append]
  constructor
  · exact fun h => ⟨fun c hc => h c (.inl hc), fun c hc => h c (.inr hc)⟩
  · rintro ⟨h, g⟩ c (hc | hc)
    · exact h c hc
    · exact g c hc

@[simp] theorem quiet_readCycles (s : State) (w : Width) (l : Loc) : Quiet (readCycles s w l) := by
  cases w <;> simp [readCycles]

@[simp] theorem quiet_lockedReadCycles (s : State) (w : Width) (l : Loc) : Quiet (lockedReadCycles s w l) := by
  cases w <;> simp [lockedReadCycles]

/-- The reset sequence writes nothing (70_reset_and_hazards.md R500). -/
@[simp] theorem quiet_resetCycles (s : State) : Quiet (resetCycles s) := by
  simp [resetCycles, conditioningCycles, resetSequence]

@[simp] theorem quiet_dlCycle (s : State) : Quiet (dlCycle s) := by
  unfold dlCycle; split <;> simp

@[simp] theorem quiet_indexCycle (s : State) (acc : Access) (aa idx : Word) : Quiet (indexCycle s acc aa idx) := by
  unfold indexCycle; split <;> simp

@[simp] theorem quiet_pointerCycles (s : State) (l : Loc) : Quiet (pointerCycles s l) := by simp [pointerCycles]

@[simp] theorem quiet_pointerLongCycles (s : State) (l : Loc) : Quiet (pointerLongCycles s l) := by
  simp [pointerLongCycles]

/-- The cycles of an addressing mode write nothing. -/
@[simp] theorem quiet_modeCycles (m : MemMode) (acc : Access) (s : State) : Quiet (m.cycles acc s) := by
  cases m <;> simp [MemMode.cycles]

@[simp] theorem quiet_pullCycles (s : State) (next : Word → Word) (sp : Word) (n : Nat) :
    Quiet (pullCycles s next sp n) := by
  induction n generalizing sp with
  | zero => exact quiet_nil
  | succ n ih => simp [pullCycles, ih]

@[simp] theorem quiet_pulls (s : State) (n : Nat) : Quiet (s.pulls n) := quiet_pullCycles _ _ _ _
@[simp] theorem quiet_pullsN (s : State) (n : Nat) : Quiet (s.pullsN n) := quiet_pullCycles _ _ _ _

@[simp] theorem quiet_branchTrace (c : Bool) (off : Byte) (s : State) : Quiet (branchTrace c off s) := by
  unfold branchTrace; dsimp only; split <;> split <;> simp

theorem applyAll_append (m : List Host.Cell) (cs ds : List BusCycle) :
    applyCycles m (cs ++ ds) = applyCycles (applyCycles m cs) ds := List.foldl_append

/-- The writes of a store are the store. -/
theorem applyAll_writeCycles (s : State) (w : Width) (l : Loc) (v : Word) :
    applyCycles s.mem (writeCycles w l v) = (s.writeLoc w l v).mem := by cases w <;> rfl

/-- The cycles of a read-modify-write are its write-back. -/
theorem applyAll_modifyCycles (s : State) (w : Width) (l : Loc) (r : Word) :
    applyCycles s.mem (modifyCycles s w l r) = (s.writeBack w l r).mem := by
  cases w <;> simp [modifyCycles, lockedReadCycles, State.writeBack, State.writeByte]

/-- A cycle of any list keeps the canonical form of memory. -/
theorem wf_apply (m : List Host.Cell) (c : BusCycle) (h : Memory.wf m = true) : Memory.wf (c.apply m) = true := by
  unfold BusCycle.apply
  split
  · split
    · exact Memory.wf_write _ _ _ h (by exact c.addr.isLt)
    · exact h
  · exact h

theorem wf_applyCycles (m : List Host.Cell) (cs : List BusCycle) (h : Memory.wf m = true) :
    Memory.wf (applyCycles m cs) = true := by
  induction cs generalizing m with
  | nil => exact h
  | cons c cs ih => exact ih _ (wf_apply m c h)

/-! ### Pushes -/

@[simp] theorem pushes_nil (s : State) : s.pushes [] = [] := rfl
@[simp] theorem pushesN_nil (s : State) : s.pushesN [] = [] := rfl

theorem pushes_cons (s : State) (b : Byte) (bs : List Byte) :
    s.pushes (b :: bs) = writeCycle (addr 0 s.sp) b :: (s.push8 b).pushes bs := by
  simp only [State.pushes, pushCycles, push8_e, push8_sp]

theorem pushesN_cons (s : State) (b : Byte) (bs : List Byte) :
    s.pushesN (b :: bs) = writeCycle (addr 0 s.sp) b :: (s.pushN8 b).pushesN bs := rfl

theorem applyAll_pushes (s : State) (bs : List Byte) :
    applyCycles s.mem (s.pushes bs) = (bs.foldl State.push8 s).mem := by
  induction bs generalizing s with
  | nil => rfl
  | cons b bs ih => rw [pushes_cons, List.foldl_cons, ← ih]; rfl

theorem applyAll_pushesN (s : State) (bs : List Byte) :
    applyCycles s.mem (s.pushesN bs) = (bs.foldl State.pushN8 s).mem := by
  induction bs generalizing s with
  | nil => rfl
  | cons b bs ih => rw [pushesN_cons, List.foldl_cons, ← ih]; rfl

/-- The stack cycles of an interrupt leave the memory the frame leaves. -/
theorem applyAll_frameCycles (k : IntKind) (r : Word) (s : State) :
    applyCycles s.mem (frameCycles k r s) = (pushFrame k r s).mem := by
  unfold frameCycles
  dsimp only
  rw [applyAll_append, applyAll_pushes]
  cases h : s.e <;> simp only [pushFrame, h, State.push16] <;> rfl

/-! ### Numbers of cycles -/

@[simp] theorem length_conditioningCycles (s : State) : (conditioningCycles s).length = 2 := rfl

/-- The sequence that starts when RESB goes high is seven cycles (R601; 71_bus_cycles.md R645). -/
@[simp] theorem length_resetSequence (s : State) : (resetSequence s).length = 7 := rfl

/-! ### The conditioning period of a reset -/

/-- The pins of the conditioning cycles (10_state.md R60). -/
theorem conditioningCycles_pins (s : State) :
    ∀ c ∈ conditioningCycles s, c.rwb = true ∧ c.vda = false ∧ c.vpa = false ∧ c.vpb = true := by
  simp [conditioningCycles, internalAt, internalCycle]

@[simp] theorem resetInit_pinE (s : State) : (resetInit s).pinE = true := rfl

@[simp] theorem resetInit_pinMX (s : State) (phi2High : Bool) : (resetInit s).pinMX phi2High = true := by
  cases phi2High <;> simp [State.pinMX, resetInit, State.fM, State.fX, resetStatus]

/-- A step that resets ends with the reset of some state, with the inputs as sampled, and its bus cycles with those of that
reset. -/
theorem busCycles_reset (s : State) (h : (boundary s).2 = .reset ∨ ∃ n a, (boundary s).2 = .abandon n a) :
    ∃ cs u, step s = .next { resetStep u with pins := (boundary s).1.pins } ∧
      busCycles s = cs ++ conditioningCycles u ++ resetSequence u := by
  unfold step busCycles; dsimp only
  rcases h with h | ⟨n, a, h⟩ <;> rw [h]
  · exact ⟨_, _, rfl, (List.append_assoc _ _ _).symm⟩
  · simp only [actionCycles, resetCycles, ← List.append_assoc]; exact ⟨_, _, rfl, rfl⟩

@[simp] theorem length_pushes (s : State) (bs : List Byte) : (s.pushes bs).length = bs.length := by
  induction bs generalizing s with
  | nil => rfl
  | cons b bs ih => rw [pushes_cons]; simp [ih]

@[simp] theorem length_pushesN (s : State) (bs : List Byte) : (s.pushesN bs).length = bs.length := by
  induction bs generalizing s with
  | nil => rfl
  | cons b bs ih => rw [pushesN_cons]; simp [ih]

theorem length_pullCycles (s : State) (next : Word → Word) (sp : Word) (n : Nat) :
    (pullCycles s next sp n).length = n := by
  induction n generalizing sp with
  | zero => rfl
  | succ n ih => simp [pullCycles, ih]

@[simp] theorem length_pulls (s : State) (n : Nat) : (s.pulls n).length = n := length_pullCycles _ _ _ _
@[simp] theorem length_pullsN (s : State) (n : Nat) : (s.pullsN n).length = n := length_pullCycles _ _ _ _

@[simp] theorem length_dlCycle (s : State) : (dlCycle s).length = plus (lo s.d != 0) 1 := by
  unfold dlCycle plus; by_cases h : lo s.d = 0#8 <;> simp [h]

@[simp] theorem length_indexCycle (s : State) (acc : Access) (aa idx : Word) :
    (indexCycle s acc aa idx).length = plus (indexExtra s acc (some (aa, idx))) 1 := by
  unfold indexCycle indexExtra plus; split <;> simp

@[simp] theorem length_branchTrace (c : Bool) (off : Byte) (s : State) :
    (branchTrace c off s).length =
      2 + plus c 1 + plus (c && s.e && hi (relTarget s off) != hi (s.pc + 2)) 1 := by
  unfold branchTrace plus; dsimp only; split <;> split <;> simp

end Sys2Proof.Machine
end

