-- ==== Sys2Proof/Laws/Operands.lean ====
section
/-! SUPPORT. The addresses of the addressing modes' locators as numbers, one lemma per locator (31_addressing_modes.md R130,
R131, R145 to R148, R153). -/

namespace Sys2Proof.Machine

theorem addr_zero_toNat (o : Word) : (addr 0 o).toNat = o.toNat := by rw [addr_toNat]; simp

theorem linLoc_a0 (b : Addr) (i : Word) : (linLoc b i).a0.toNat = (b.toNat + i.toNat) % 2 ^ 24 := by
  simp only [linLoc, BitVec.toNat_add, BitVec.toNat_setWidth]; have := i.isLt; omega

theorem linLoc_a1 (b : Addr) (i : Word) : (linLoc b i).a1.toNat = ((linLoc b i).a0.toNat + 1) % 2 ^ 24 := by
  simp [linLoc, Loc.a1, Succ.apply, inc24, BitVec.toNat_add]

/-- `Dir(DO, idx)`: in the page DH:00 in emulation mode with DL = 00, else in bank 0. -/
theorem dirLoc_a0 (s : State) (d : Byte) (i : Word) :
    (dirLoc s d i).a0.toNat =
      if s.e = true ∧ lo s.d = 0 then s.d.toNat + (d.toNat + i.toNat) % 256
      else (s.d.toNat + d.toNat + i.toNat) % 65536 := by
  unfold dirLoc
  simp only [Bool.and_eq_true, beq_iff_eq]
  split
  · next h =>
    have h2 := congrArg BitVec.toNat h.2
    rw [lo_toNat] at h2
    simp only [addr_zero_toNat, word_toNat, hi_toNat, BitVec.toNat_add, lo_toNat]
    simp at h2
    omega
  · simp only [addr_zero_toNat, BitVec.toNat_add, zext_toNat]; omega

/-- The byte after it, wrapping in the same page or bank. -/
theorem dirLoc_a1 (s : State) (d : Byte) (i : Word) :
    (dirLoc s d i).a1.toNat =
      if s.e = true ∧ lo s.d = 0 then s.d.toNat + (d.toNat + (i.toNat + 1)) % 256
      else (s.d.toNat + d.toNat + (i.toNat + 1)) % 65536 := by
  unfold dirLoc
  simp only [Bool.and_eq_true, beq_iff_eq]
  split
  · next h =>
    have h2 := congrArg BitVec.toNat h.2
    rw [lo_toNat] at h2
    simp only [Loc.a1, Succ.apply, incPage, bankOf_addr, offOf_addr, hi_word, lo_word, addr_zero_toNat, word_toNat,
      hi_toNat, BitVec.toNat_add, lo_toNat]
    simp at h2 ⊢
    omega
  · simp only [Loc.a1, Succ.apply, incBank, bankOf_addr, offOf_addr, addr_zero_toNat, BitVec.toNat_add, zext_toNat]
    simp; omega

theorem srLoc_a0 (s : State) (so : Byte) : (srLoc s so).a0.toNat = (s.sp.toNat + so.toNat) % 65536 := by
  simp only [srLoc, addr_zero_toNat, BitVec.toNat_add, zext_toNat]

theorem srLoc_a1 (s : State) (so : Byte) : (srLoc s so).a1.toNat = (s.sp.toNat + so.toNat + 1) % 65536 := by
  simp only [srLoc, Loc.a1, Succ.apply, incBank, bankOf_addr, offOf_addr, addr_zero_toNat, BitVec.toNat_add, zext_toNat]
  simp

theorem dirLongLoc_a0 (s : State) (d : Byte) : (dirLongLoc s d).a0.toNat = (s.d.toNat + d.toNat) % 65536 := by
  simp only [dirLongLoc, addr_zero_toNat, BitVec.toNat_add, zext_toNat]

theorem dirLongLoc_a1 (s : State) (d : Byte) : (dirLongLoc s d).a1.toNat = (s.d.toNat + d.toNat + 1) % 65536 := by
  simp only [dirLongLoc, Loc.a1, Succ.apply, incBank, bankOf_addr, offOf_addr, addr_zero_toNat, BitVec.toNat_add,
    zext_toNat]
  simp

theorem dirLongLoc_a2 (s : State) (d : Byte) :
    ((dirLongLoc s d).succ.apply (dirLongLoc s d).a1).toNat = (s.d.toNat + d.toNat + 2) % 65536 := by
  simp only [dirLongLoc, Loc.a1, Succ.apply, incBank, bankOf_addr, offOf_addr, addr_zero_toNat, BitVec.toNat_add,
    zext_toNat]
  simp

/-- A 16-bit pointer as a number. -/
theorem readPtr16_toNat (s : State) (l : Loc) :
    (s.readPtr16 l).toNat = (s.memRead .data l.a0).toNat + 256 * (s.memRead .data l.a1).toNat := by
  rw [State.readPtr16, word_toNat]; omega

/-- A 24-bit pointer as a number. -/
theorem readPtr24_toNat (s : State) (l : Loc) :
    (s.readPtr24 l).toNat =
      (s.memRead .data l.a0).toNat + 256 * (s.memRead .data l.a1).toNat +
        65536 * (s.memRead .data (l.succ.apply l.a1)).toNat := by
  rw [State.readPtr24, addr_toNat, word_toNat]; omega

end Sys2Proof.Machine
end

