-- ==== Sys2Proof/Laws/BusReads.lean ====
section
/-! SUPPORT. What the bus cycles read: first with the platform's answers as they are throughout (`ReadsFixed`), which is right for
a list that reads no address twice in cycles of one kind; then with each read using up an answer (`ReadsSeeMemory`). -/

namespace Sys2Proof.Machine

/-! ### Cycles under answers that stay as they are -/

/-- A cycle that, if it is a valid read, shows what a platform with these answers gives over memory `m`. -/
def BusCycle.shows (an : List Answer) (m : List Host.Cell) (c : BusCycle) : Prop :=
  c.valid = true → c.rwb = true → ∀ v, c.data = some v → v = memAnswer an m c.kind c.addr

theorem fetchByte_zero (s : State) : s.fetchByte 0 = s.memRead .opcode (addr s.pbr s.pc) := by simp [State.fetchByte]

@[simp] theorem shows_opcodeCycle (s : State) : (opcodeCycle s).shows s.pins.answers s.mem := by
  rintro - - v h; injection h with h; rw [← h, fetchByte_zero]; rfl
@[simp] theorem shows_programCycle (s : State) (a : Addr) : (programCycle s a).shows s.pins.answers s.mem := by
  rintro - - v h; injection h with h; exact h.symm
@[simp] theorem shows_operandCycle (s : State) (k : Nat) : (operandCycle s k).shows s.pins.answers s.mem := shows_programCycle _ _
/-- A read of the instruction stream after some of a step's own pushes. -/
theorem shows_programCycle_of (s t : State) (a : Addr) (h : t.pins = s.pins) :
    (programCycle t a).shows s.pins.answers t.mem := by rw [← h]; simp

@[simp] theorem shows_readCycle (s : State) (a : Addr) : (readCycle s a).shows s.pins.answers s.mem := by
  rintro - - v h; injection h with h; exact h.symm
@[simp] theorem shows_lockedReadCycle (s : State) (a : Addr) : (lockedReadCycle s a).shows s.pins.answers s.mem := by
  rintro - - v h; injection h with h; exact h.symm
@[simp] theorem shows_leadInCycle (a : Addr) (an : List Answer) (m : List Host.Cell) : (leadInCycle a).shows an m := by
  rintro - - v h; cases h
@[simp] theorem shows_vectorCycle (s : State) (a : Addr) : (vectorCycle s a).shows s.pins.answers s.mem := by
  rintro - - v h; injection h with h; exact h.symm
@[simp] theorem shows_internalCycle (a : Addr) (an : List Answer) (m : List Host.Cell) : (internalCycle a).shows an m := by
  intro h; cases h
@[simp] theorem shows_internalAt (s : State) (k : Nat) (an : List Answer) (m : List Host.Cell) : (internalAt s k).shows an m := by
  intro h; cases h
@[simp] theorem shows_writeCycle (a : Addr) (v : Byte) (an : List Answer) (m : List Host.Cell) : (writeCycle a v).shows an m := by
  rintro - h; cases h
@[simp] theorem shows_modifyCycle (s : State) (w : Width) (l : Loc) (r : Word) (an : List Answer) (m : List Host.Cell) :
    (modifyCycle s w l r).shows an m := by
  unfold modifyCycle; cases w <;> cases s.e <;> (intro h; cases h)
@[simp] theorem shows_lockedWrite (a : Addr) (v : Byte) (an : List Answer) (m : List Host.Cell) :
    (writeCycle a v).locked.shows an m := by
  rintro - h; cases h
@[simp] theorem shows_lockedModify (s : State) (w : Width) (l : Loc) (r : Word) (an : List Answer) (m : List Host.Cell) :
    (modifyCycle s w l r).locked.shows an m := by
  unfold modifyCycle; cases w <;> cases s.e <;> (intro h; cases h)

/-- Every cycle of a list shows what its turn gives, the platform's answers staying as they are. -/
def ReadsFixed (an : List Answer) : List Host.Cell → List BusCycle → Prop
  | _, [] => True
  | m, c :: rest => c.shows an m ∧ ReadsFixed an (c.apply m) rest

theorem readsFixed_cons (an : List Answer) (m : List Host.Cell) (c : BusCycle) (cs : List BusCycle) :
    ReadsFixed an m (c :: cs) ↔ c.shows an m ∧ ReadsFixed an (c.apply m) cs := Iff.rfl

@[simp] theorem readsFixed_nil (an : List Answer) (m : List Host.Cell) : ReadsFixed an m [] := trivial

theorem readsFixed_append (an : List Answer) (m : List Host.Cell) (cs ds : List BusCycle) :
    ReadsFixed an m (cs ++ ds) ↔ ReadsFixed an m cs ∧ ReadsFixed an (applyCycles m cs) ds := by
  induction cs generalizing m with
  | nil => simp
  | cons c cs ih => simp only [List.cons_append, readsFixed_cons, ih, List.foldl_cons, and_assoc]

/-- Every cycle of a list shows memory `m`. -/
def Shown (an : List Answer) (m : List Host.Cell) (cs : List BusCycle) : Prop := ∀ c ∈ cs, c.shows an m

@[simp] theorem shown_nil (an : List Answer) (m : List Host.Cell) : Shown an m [] := fun _ h => absurd h (by simp)

@[simp] theorem shown_cons (an : List Answer) (m : List Host.Cell) (c : BusCycle) (cs : List BusCycle) :
    Shown an m (c :: cs) ↔ c.shows an m ∧ Shown an m cs := by simp [Shown]

@[simp] theorem shown_append (an : List Answer) (m : List Host.Cell) (cs ds : List BusCycle) :
    Shown an m (cs ++ ds) ↔ Shown an m cs ∧ Shown an m ds := by
  simp only [Shown, List.mem_append]
  constructor
  · exact fun h => ⟨fun c hc => h c (.inl hc), fun c hc => h c (.inr hc)⟩
  · rintro ⟨h, g⟩ c (hc | hc)
    · exact h c hc
    · exact g c hc

/-- A list of cycles that writes nothing and shows memory `m` throughout. -/
theorem readsFixed_quiet (an : List Answer) (m : List Host.Cell) (cs : List BusCycle) (hq : Quiet cs) (h : Shown an m cs) :
    ReadsFixed an m cs := by
  induction cs with
  | nil => trivial
  | cons c cs ih =>
    rw [quiet_cons] at hq
    rw [shown_cons] at h
    rw [readsFixed_cons, hq.1]
    exact ⟨h.1, ih hq.2 h.2⟩

@[simp] theorem shown_readCycles (s : State) (w : Width) (l : Loc) : Shown s.pins.answers s.mem (readCycles s w l) := by
  cases w <;> simp [readCycles]

@[simp] theorem shown_lockedReadCycles (s : State) (w : Width) (l : Loc) :
    Shown s.pins.answers s.mem (lockedReadCycles s w l) := by cases w <;> simp [lockedReadCycles]

@[simp] theorem shown_resetCycles (s : State) : Shown s.pins.answers s.mem (resetCycles s) := by
  simp [resetCycles, conditioningCycles, resetSequence]

@[simp] theorem shown_dlCycle (s : State) : Shown s.pins.answers s.mem (dlCycle s) := by unfold dlCycle; split <;> simp

@[simp] theorem shown_indexCycle (s : State) (acc : Access) (aa idx : Word) :
    Shown s.pins.answers s.mem (indexCycle s acc aa idx) := by unfold indexCycle; split <;> simp

@[simp] theorem shown_pointerCycles (s : State) (l : Loc) : Shown s.pins.answers s.mem (pointerCycles s l) := by simp [pointerCycles]

@[simp] theorem shown_pointerLongCycles (s : State) (l : Loc) : Shown s.pins.answers s.mem (pointerLongCycles s l) := by
  simp [pointerLongCycles]

@[simp] theorem shown_modeCycles (m : MemMode) (acc : Access) (s : State) : Shown s.pins.answers s.mem (m.cycles acc s) := by
  cases m <;> simp [MemMode.cycles]

@[simp] theorem shown_branchTrace (c : Bool) (off : Byte) (s : State) : Shown s.pins.answers s.mem (branchTrace c off s) := by
  unfold branchTrace; dsimp only; split <;> split <;> simp

/-- Pushes read nothing. -/
theorem readsFixed_pushes (s : State) (bs : List Byte) (an : List Answer) (m : List Host.Cell) : ReadsFixed an m (s.pushes bs) := by
  induction bs generalizing s m with
  | nil => trivial
  | cons b bs ih => rw [pushes_cons, readsFixed_cons]; exact ⟨by simp, ih _ _⟩

theorem readsFixed_pushesN (s : State) (bs : List Byte) (an : List Answer) (m : List Host.Cell) : ReadsFixed an m (s.pushesN bs) := by
  induction bs generalizing s m with
  | nil => trivial
  | cons b bs ih => rw [pushesN_cons, readsFixed_cons]; exact ⟨by simp, ih _ _⟩

theorem shown_pullCycles (s : State) (next : Word → Word) (sp : Word) (n : Nat) :
    Shown s.pins.answers s.mem (pullCycles s next sp n) := by
  induction n generalizing sp with
  | zero => exact shown_nil _ _
  | succ n ih => simp [pullCycles, ih]

@[simp] theorem shown_pulls (s : State) (n : Nat) : Shown s.pins.answers s.mem (s.pulls n) := shown_pullCycles _ _ _ _
@[simp] theorem shown_pullsN (s : State) (n : Nat) : Shown s.pins.answers s.mem (s.pullsN n) := shown_pullCycles _ _ _ _

theorem readsFixed_frameCycles (k : IntKind) (r : Word) (s : State) : ReadsFixed s.pins.answers s.mem (frameCycles k r s) := by
  unfold frameCycles
  dsimp only
  rw [readsFixed_append]
  refine ⟨readsFixed_pushes _ _ _ _, ?_⟩
  have h : applyCycles s.mem (s.pushes ((if s.e = true then [] else [s.pbr]) ++ [hi r, lo r, stackedP s k]))
      = (pushFrame k r s).mem := by
    rw [applyAll_pushes]
    cases h : s.e <;> simp only [pushFrame, h, State.push16] <;> rfl
  rw [h, ← pushFrame_pins s k r]
  exact readsFixed_quiet _ _ _ (by simp) (by simp only [shown_cons, shown_nil, shows_vectorCycle, and_self])

/-! ### The addresses read in cycles of one kind -/

/-- The address a cycle reads, if it is a valid read of the kind. -/
def BusCycle.reads (k : CycleKind) (c : BusCycle) : List Addr :=
  if c.valid && c.rwb && decide (c.kind = k) then [c.addr] else []

/-- The addresses a list of cycles reads in cycles of a kind, in order. -/
def readsOf (k : CycleKind) (cs : List BusCycle) : List Addr := cs.flatMap (·.reads k)

@[simp] theorem readsOf_nil (k : CycleKind) : readsOf k [] = [] := rfl
@[simp] theorem readsOf_cons (k : CycleKind) (c : BusCycle) (cs : List BusCycle) :
    readsOf k (c :: cs) = c.reads k ++ readsOf k cs := rfl
@[simp] theorem readsOf_append (k : CycleKind) (cs ds : List BusCycle) :
    readsOf k (cs ++ ds) = readsOf k cs ++ readsOf k ds := List.flatMap_append

@[simp] theorem reads_opcodeCycle (k : CycleKind) (s : State) :
    (opcodeCycle s).reads k = if k = .opcode then [addr s.pbr s.pc] else [] := by cases k <;> rfl
@[simp] theorem reads_programCycle (k : CycleKind) (s : State) (a : Addr) :
    (programCycle s a).reads k = if k = .program then [a] else [] := by cases k <;> rfl
@[simp] theorem reads_operandCycle (k : CycleKind) (s : State) (n : Nat) :
    (operandCycle s n).reads k = if k = .program then [addr s.pbr (s.pc + BitVec.ofNat 16 n)] else [] := by
  cases k <;> rfl
@[simp] theorem reads_readCycle (k : CycleKind) (s : State) (a : Addr) :
    (readCycle s a).reads k = if k = .data then [a] else [] := by cases k <;> rfl
@[simp] theorem reads_lockedReadCycle (k : CycleKind) (s : State) (a : Addr) :
    (lockedReadCycle s a).reads k = if k = .locked then [a] else [] := by cases k <;> rfl
@[simp] theorem reads_vectorCycle (k : CycleKind) (s : State) (a : Addr) :
    (vectorCycle s a).reads k = if k = .vector then [a] else [] := by cases k <;> rfl
@[simp] theorem reads_leadInCycle (k : CycleKind) (a : Addr) :
    (leadInCycle a).reads k = if k = .opcode then [a] else [] := by cases k <;> rfl
@[simp] theorem reads_internalCycle (k : CycleKind) (a : Addr) : (internalCycle a).reads k = [] := rfl
@[simp] theorem reads_internalAt (k : CycleKind) (s : State) (n : Nat) : (internalAt s n).reads k = [] := rfl
@[simp] theorem reads_writeCycle (k : CycleKind) (a : Addr) (v : Byte) : (writeCycle a v).reads k = [] := rfl
@[simp] theorem reads_lockedWrite (k : CycleKind) (a : Addr) (v : Byte) : (writeCycle a v).locked.reads k = [] := rfl
@[simp] theorem reads_lockedModify (k : CycleKind) (s : State) (w : Width) (l : Loc) (r : Word) :
    (modifyCycle s w l r).locked.reads k = [] := by unfold modifyCycle; cases w <;> cases s.e <;> rfl

@[simp] theorem readsOf_dlCycle (k : CycleKind) (s : State) : readsOf k (dlCycle s) = [] := by
  unfold dlCycle; split <;> simp
@[simp] theorem readsOf_indexCycle (k : CycleKind) (s : State) (acc : Access) (aa idx : Word) :
    readsOf k (indexCycle s acc aa idx) = [] := by unfold indexCycle; split <;> simp
@[simp] theorem readsOf_pushCycles (k : CycleKind) (next : Word → Word) (sp : Word) (bs : List Byte) :
    readsOf k (pushCycles next sp bs) = [] := by
  induction bs generalizing sp with
  | nil => rfl
  | cons b bs ih => simp [pushCycles, ih]
@[simp] theorem readsOf_pushes (k : CycleKind) (s : State) (bs : List Byte) : readsOf k (s.pushes bs) = [] :=
  readsOf_pushCycles _ _ _ _
@[simp] theorem readsOf_pushesN (k : CycleKind) (s : State) (bs : List Byte) : readsOf k (s.pushesN bs) = [] :=
  readsOf_pushCycles _ _ _ _

/-- The reads of a pull are at the stack addresses above S. -/
theorem readsOf_pulls (k : CycleKind) (s : State) (n : Nat) :
    readsOf k (s.pulls n) = if k = .data then (List.range n).map fun i => addr 0 (spAfterPull s (i + 1)) else [] := by
  have h : ∀ n i, readsOf k (pullCycles s (fun sp => spStep s.e sp 0x0001) (spAfterPull s i) n) =
      if k = .data then (List.range n).map fun j => addr 0 (spAfterPull s (i + j + 1)) else [] := by
    intro n
    induction n with
    | zero => intro i; simp [pullCycles]
    | succ n ih =>
      intro i
      rw [pullCycles, readsOf_cons, reads_readCycle, spStep_pull, ih]
      cases k <;> simp [List.range_succ_eq_map, Nat.add_comm, Nat.add_left_comm]
  simpa [State.pulls, spAfterPull_zero] using h n 0

theorem readsOf_pullsN (k : CycleKind) (s : State) (n : Nat) :
    readsOf k (s.pullsN n) =
      if k = .data then (List.range n).map fun i => addr 0 (s.sp + BitVec.ofNat 16 (i + 1)) else [] := by
  have h : ∀ n (i : Nat), readsOf k (pullCycles s (fun sp => sp + 1) (s.sp + BitVec.ofNat 16 i) n) =
      if k = .data then (List.range n).map fun j => addr 0 (s.sp + BitVec.ofNat 16 (i + j + 1)) else [] := by
    intro n
    induction n with
    | zero => intro i; simp [pullCycles]
    | succ n ih =>
      intro i
      have e : s.sp + BitVec.ofNat 16 i + 1 = s.sp + BitVec.ofNat 16 (i + 1) := by bv_omega
      rw [pullCycles, readsOf_cons, reads_readCycle, e, ih]
      cases k <;> simp [List.range_succ_eq_map, Nat.add_comm, Nat.add_left_comm]
  simpa [State.pullsN] using h n 0

/-- A write has no reads, a read of a datum reads its bytes. -/
@[simp] theorem readsOf_writeCycles (k : CycleKind) (w : Width) (l : Loc) (v : Word) :
    readsOf k (writeCycles w l v) = [] := by cases w <;> rfl
@[simp] theorem readsOf_readCycles (k : CycleKind) (s : State) (w : Width) (l : Loc) :
    readsOf k (readCycles s w l) = if k = .data then l.bytes w else [] := by cases w <;> cases k <;> rfl
@[simp] theorem readsOf_modifyCycles (k : CycleKind) (s : State) (w : Width) (l : Loc) (r : Word) :
    readsOf k (modifyCycles s w l r) = if k = .locked then l.bytes w else [] := by
  cases w <;> cases k <;> simp [modifyCycles, lockedReadCycles, Loc.bytes]

/-- The cycles of a mode read its operand bytes and its pointer, and nothing else. -/
theorem readsOf_modeCycles (k : CycleKind) (m : MemMode) (acc : Access) (s : State) :
    readsOf k (m.cycles acc s) =
      if k = .program then (List.range (m.len - 1)).map fun n => addr s.pbr (s.pc + BitVec.ofNat 16 (n + 1))
      else if k = .data then m.pointers s else [] := by
  cases m <;> cases k <;>
    simp [MemMode.cycles, MemMode.pointers, MemMode.len, pointerCycles, pointerLongCycles, List.range_succ]

/-! ### Reads that use the answers -/

@[simp] theorem useCycles_nil (an : List Answer) : useCycles an [] = an := rfl
@[simp] theorem useCycles_cons (an : List Answer) (c : BusCycle) (cs : List BusCycle) :
    useCycles an (c :: cs) = useCycles (c.use an) cs := rfl
@[simp] theorem useCycles_append (an : List Answer) (cs ds : List BusCycle) :
    useCycles an (cs ++ ds) = useCycles (useCycles an cs) ds := List.foldl_append

/-- Reads of a list of addresses in cycles of one kind use up the answers for them alone. -/
theorem ofKind_foldl_useAnswer (k : CycleKind) (an : List Answer) (as : List Addr) :
    ofKind k (as.foldl (useAnswer · k) an) = as.foldl (useAnswer · k) (ofKind k an) := by
  induction as generalizing an with
  | nil => rfl
  | cons a as ih => simp [ih]

/-- What a list of cycles leaves of the answers for a kind: its reads of that kind have used them. -/
theorem ofKind_useCycles (k : CycleKind) (an : List Answer) (cs : List BusCycle) :
    ofKind k (useCycles an cs) = (readsOf k cs).foldl (useAnswer · k) (ofKind k an) := by
  induction cs generalizing an with
  | nil => rfl
  | cons c cs ih =>
    rw [useCycles_cons, ih, readsOf_cons, List.foldl_append]
    congr 1
    unfold BusCycle.use BusCycle.reads
    by_cases h : (c.valid && c.rwb) = true
    · by_cases hk : c.kind = k
      · subst hk; simp [h]
      · simp [h, hk, ofKind_useAnswer_other _ _ _ _ (Ne.symm hk)]
    · simp [h]

theorem readsSeeMemory_cons (an : List Answer) (m : List Host.Cell) (c : BusCycle) (cs : List BusCycle) :
    ReadsSeeMemory an m (c :: cs) ↔ c.shows an m ∧ ReadsSeeMemory (c.use an) (c.apply m) cs := Iff.rfl

@[simp] theorem readsSeeMemory_nil (an : List Answer) (m : List Host.Cell) : ReadsSeeMemory an m [] := trivial

/-- The second part of a list starts with the memory and the answers the first part leaves. -/
theorem readsSeeMemory_append (an : List Answer) (m : List Host.Cell) (cs ds : List BusCycle) :
    ReadsSeeMemory an m (cs ++ ds) ↔
      ReadsSeeMemory an m cs ∧ ReadsSeeMemory (useCycles an cs) (applyCycles m cs) ds := by
  induction cs generalizing an m with
  | nil => simp
  | cons c cs ih => simp only [List.cons_append, readsSeeMemory_cons, ih, useCycles_cons, List.foldl_cons, and_assoc]

/-- A part of a list that reads as memory does, reads as memory does. -/
theorem readsSeeMemory_take (an : List Answer) (m : List Host.Cell) (cs : List BusCycle) (n : Nat)
    (h : ReadsSeeMemory an m cs) : ReadsSeeMemory an m (cs.take n) := by
  rw [← List.take_append_drop n cs, readsSeeMemory_append] at h
  exact h.1

/-- Where no address is read twice in cycles of one kind, no read meets an answer another one has used: the list may be read
with answers that stay, and any answers that agree on the addresses read will do. -/
theorem readsSeeMemory_of_fixed (an an' : List Answer) (m : List Host.Cell) (cs : List BusCycle) (h : ReadsFixed an m cs)
    (hn : ∀ k, (readsOf k cs).Nodup) (ha : ∀ k, ∀ a ∈ readsOf k cs, answerFor an' k a = answerFor an k a) :
    ReadsSeeMemory an' m cs := by
  induction cs generalizing an' m with
  | nil => trivial
  | cons c cs ih =>
    rw [readsSeeMemory_cons]
    by_cases hr : (c.valid && c.rwb) = true
    · have hc : ∀ k, c.reads k = if c.kind = k then [c.addr] else [] := fun k => by simp [BusCycle.reads, hr]
      refine ⟨fun hv hw v hd => ?_, ih _ _ h.2 (fun k => ?_) (fun k a hm => ?_)⟩
      · rw [h.1 hv hw v hd, memAnswer, memAnswer, ha c.kind c.addr (by simp [hc])]
      · exact (List.nodup_append.1 (by simpa using hn k)).2.1
      · have ho : (k, a) ≠ (c.kind, c.addr) := by
          intro e; injection e with e1 e2; subst e1; subst e2
          have := hn c.kind
          simp [hc, hm] at this
        rw [BusCycle.use, if_pos hr, answerFor_useAnswer_other _ _ _ _ _ ho, ha k a (by simp [hm])]
    · have hc : ∀ k, c.reads k = [] := fun k => by simp only [BusCycle.reads, hr]; simp
      have hu : c.use an' = an' := by simp only [BusCycle.use, hr]; simp
      refine ⟨fun hv hw => absurd (by simp [hv, hw]) hr, ?_⟩
      rw [hu]
      exact ih _ _ h.2 (fun k => by simpa [hc] using hn k) (fun k a hm => ha k a (by simp [hm]))

/-- The same under one list of answers. -/
theorem readsSeeMemory_fixed (an : List Answer) (m : List Host.Cell) (cs : List BusCycle) (h : ReadsFixed an m cs)
    (hn : ∀ k, (readsOf k cs).Nodup) : ReadsSeeMemory an m cs :=
  readsSeeMemory_of_fixed an an m cs h hn fun _ _ _ => rfl

/-- A list of cycles that reads nothing. -/
theorem readsSeeMemory_noReads (an : List Answer) (m : List Host.Cell) (cs : List BusCycle)
    (h : ∀ k, readsOf k cs = []) (hf : ReadsFixed an m cs) : ReadsSeeMemory an m cs := readsSeeMemory_fixed an m cs hf fun k => by simp [h k]

/-! ### A data operand after its pointer -/

/-- The pointer bytes of a mode are different addresses. -/
theorem nodup_pointers (m : MemMode) (s : State) : (m.pointers s).Nodup := by
  have two : ∀ l : Loc, [l.a0, l.a1].Nodup := fun l => by simp [(a1_ne_a0 l).symm]
  have three : ∀ d, [(dirLongLoc s d).a0, (dirLongLoc s d).a1, (dirLongLoc s d).succ.apply (dirLongLoc s d).a1].Nodup := by
    intro d
    have h0 := dirLongLoc_a0 s d
    have h1 := dirLongLoc_a1 s d
    have h2 := dirLongLoc_a2 s d
    simp only [List.nodup_cons, List.mem_cons, List.not_mem_nil, or_false, not_or, not_false_eq_true, List.nodup_nil,
      and_true]
    exact ⟨⟨fun e => by have := congrArg BitVec.toNat e; omega, fun e => by have := congrArg BitVec.toNat e; omega⟩,
      fun e => by have := congrArg BitVec.toNat e; omega⟩
  cases m <;> first | exact List.nodup_nil | exact two _ | exact three _

/-- The answers left for data reads after the fetch and the pointer of a mode are those of `MemMode.reached`. -/
theorem ofKind_reached (m : MemMode) (acc : Access) (s : State) :
    ofKind .data (useCycles s.pins.answers (opcodeCycle s :: m.cycles acc s)) = ofKind .data (m.reached s).pins.answers := by
  rw [ofKind_useCycles, MemMode.reached, State.afterReads, ofKind_foldl_useAnswer]
  simp [readsOf_modeCycles]

end Sys2Proof.Machine
end

