-- ==== Sys2Proof/Laws/Encoding.lean ====
section
/-! SUPPORT. Encoding what the decoder assembles gives the bytes back, row by row of the opcode matrix, and assembling the bytes of
an encoding. -/

namespace Sys2Proof

-- One proof after the other: in parallel each waits on a thread of its own for the same equations, and memory runs short.
set_option Elab.async false

open Machine

@[simp] theorem Operands.w_mk (f : Widths) (b1 b2 b3 : Byte) : (Operands.mk f b1 b2 b3).w = word b2 b1 := rfl
@[simp] theorem Operands.l_mk (f : Widths) (b1 b2 b3 : Byte) :
    (Operands.mk f b1 b2 b3).l = addr b3 (word b2 b1) := rfl

theorem encode_row0 (o : Operands) (c : Nat) (hc : c < 16) :
    encode o.f (decodeRow0 o c) = [BitVec.ofNat 8 (0x00 + c), o.b1, o.b2, o.b3].take ((decodeRow0 o c).len o.f) := by
  obtain ⟨⟨m, x⟩, b1, b2, b3⟩ := o
  interval_cases c <;>
    simp [decodeRow0, encode, Instr.len, wordBytes, addrBytes]
  all_goals cases m <;> cases x <;> simp [Operands.imm, immBytes]

theorem encode_row1 (o : Operands) (c : Nat) (hc : c < 16) :
    encode o.f (decodeRow1 o c) = [BitVec.ofNat 8 (0x10 + c), o.b1, o.b2, o.b3].take ((decodeRow1 o c).len o.f) := by
  obtain ⟨⟨m, x⟩, b1, b2, b3⟩ := o
  interval_cases c <;>
    simp [decodeRow1, encode, Instr.len, wordBytes, addrBytes]

theorem encode_row2 (o : Operands) (c : Nat) (hc : c < 16) :
    encode o.f (decodeRow2 o c) = [BitVec.ofNat 8 (0x20 + c), o.b1, o.b2, o.b3].take ((decodeRow2 o c).len o.f) := by
  obtain ⟨⟨m, x⟩, b1, b2, b3⟩ := o
  interval_cases c <;>
    simp [decodeRow2, encode, Instr.len, wordBytes, addrBytes]
  all_goals cases m <;> cases x <;> simp [Operands.imm, immBytes]

theorem encode_row3 (o : Operands) (c : Nat) (hc : c < 16) :
    encode o.f (decodeRow3 o c) = [BitVec.ofNat 8 (0x30 + c), o.b1, o.b2, o.b3].take ((decodeRow3 o c).len o.f) := by
  obtain ⟨⟨m, x⟩, b1, b2, b3⟩ := o
  interval_cases c <;>
    simp [decodeRow3, encode, Instr.len, wordBytes, addrBytes]

theorem encode_row4 (o : Operands) (c : Nat) (hc : c < 16) :
    encode o.f (decodeRow4 o c) = [BitVec.ofNat 8 (0x40 + c), o.b1, o.b2, o.b3].take ((decodeRow4 o c).len o.f) := by
  obtain ⟨⟨m, x⟩, b1, b2, b3⟩ := o
  interval_cases c <;>
    simp [decodeRow4, encode, Instr.len, wordBytes, addrBytes]
  all_goals cases m <;> cases x <;> simp [Operands.imm, immBytes]

theorem encode_row5 (o : Operands) (c : Nat) (hc : c < 16) :
    encode o.f (decodeRow5 o c) = [BitVec.ofNat 8 (0x50 + c), o.b1, o.b2, o.b3].take ((decodeRow5 o c).len o.f) := by
  obtain ⟨⟨m, x⟩, b1, b2, b3⟩ := o
  interval_cases c <;>
    simp [decodeRow5, encode, Instr.len, wordBytes, addrBytes]

theorem encode_row6 (o : Operands) (c : Nat) (hc : c < 16) :
    encode o.f (decodeRow6 o c) = [BitVec.ofNat 8 (0x60 + c), o.b1, o.b2, o.b3].take ((decodeRow6 o c).len o.f) := by
  obtain ⟨⟨m, x⟩, b1, b2, b3⟩ := o
  interval_cases c <;>
    simp [decodeRow6, encode, Instr.len, wordBytes, addrBytes]
  all_goals cases m <;> cases x <;> simp [Operands.imm, immBytes]

theorem encode_row7 (o : Operands) (c : Nat) (hc : c < 16) :
    encode o.f (decodeRow7 o c) = [BitVec.ofNat 8 (0x70 + c), o.b1, o.b2, o.b3].take ((decodeRow7 o c).len o.f) := by
  obtain ⟨⟨m, x⟩, b1, b2, b3⟩ := o
  interval_cases c <;>
    simp [decodeRow7, encode, Instr.len, wordBytes, addrBytes]

theorem encode_row8 (o : Operands) (c : Nat) (hc : c < 16) :
    encode o.f (decodeRow8 o c) = [BitVec.ofNat 8 (0x80 + c), o.b1, o.b2, o.b3].take ((decodeRow8 o c).len o.f) := by
  obtain ⟨⟨m, x⟩, b1, b2, b3⟩ := o
  interval_cases c <;>
    simp [decodeRow8, encode, Instr.len, wordBytes, addrBytes]
  all_goals cases m <;> cases x <;> simp [Operands.imm, immBytes]

theorem encode_row9 (o : Operands) (c : Nat) (hc : c < 16) :
    encode o.f (decodeRow9 o c) = [BitVec.ofNat 8 (0x90 + c), o.b1, o.b2, o.b3].take ((decodeRow9 o c).len o.f) := by
  obtain ⟨⟨m, x⟩, b1, b2, b3⟩ := o
  interval_cases c <;>
    simp [decodeRow9, encode, Instr.len, wordBytes, addrBytes]

theorem encode_rowA (o : Operands) (c : Nat) (hc : c < 16) :
    encode o.f (decodeRowA o c) = [BitVec.ofNat 8 (0xA0 + c), o.b1, o.b2, o.b3].take ((decodeRowA o c).len o.f) := by
  obtain ⟨⟨m, x⟩, b1, b2, b3⟩ := o
  interval_cases c <;>
    simp [decodeRowA, encode, Instr.len, wordBytes, addrBytes]
  all_goals cases m <;> cases x <;> simp [Operands.imm, immBytes]

theorem encode_rowB (o : Operands) (c : Nat) (hc : c < 16) :
    encode o.f (decodeRowB o c) = [BitVec.ofNat 8 (0xB0 + c), o.b1, o.b2, o.b3].take ((decodeRowB o c).len o.f) := by
  obtain ⟨⟨m, x⟩, b1, b2, b3⟩ := o
  interval_cases c <;>
    simp [decodeRowB, encode, Instr.len, wordBytes, addrBytes]

theorem encode_rowC (o : Operands) (c : Nat) (hc : c < 16) :
    encode o.f (decodeRowC o c) = [BitVec.ofNat 8 (0xC0 + c), o.b1, o.b2, o.b3].take ((decodeRowC o c).len o.f) := by
  obtain ⟨⟨m, x⟩, b1, b2, b3⟩ := o
  interval_cases c <;>
    simp [decodeRowC, encode, Instr.len, wordBytes, addrBytes]
  all_goals cases m <;> cases x <;> simp [Operands.imm, immBytes]

theorem encode_rowD (o : Operands) (c : Nat) (hc : c < 16) :
    encode o.f (decodeRowD o c) = [BitVec.ofNat 8 (0xD0 + c), o.b1, o.b2, o.b3].take ((decodeRowD o c).len o.f) := by
  obtain ⟨⟨m, x⟩, b1, b2, b3⟩ := o
  interval_cases c <;>
    simp [decodeRowD, encode, Instr.len, wordBytes, addrBytes]

theorem encode_rowE (o : Operands) (c : Nat) (hc : c < 16) :
    encode o.f (decodeRowE o c) = [BitVec.ofNat 8 (0xE0 + c), o.b1, o.b2, o.b3].take ((decodeRowE o c).len o.f) := by
  obtain ⟨⟨m, x⟩, b1, b2, b3⟩ := o
  interval_cases c <;>
    simp [decodeRowE, encode, Instr.len, wordBytes, addrBytes]
  all_goals cases m <;> cases x <;> simp [Operands.imm, immBytes]

theorem encode_rowF (o : Operands) (c : Nat) (hc : c < 16) :
    encode o.f (decodeRowF o c) = [BitVec.ofNat 8 (0xF0 + c), o.b1, o.b2, o.b3].take ((decodeRowF o c).len o.f) := by
  obtain ⟨⟨m, x⟩, b1, b2, b3⟩ := o
  interval_cases c <;>
    simp [decodeRowF, encode, Instr.len, wordBytes, addrBytes]

/-- The encoding of what an opcode and three bytes assemble to is the opcode and as many of the bytes as the length says
(30_encoding.md R100 to R104). -/
theorem encode_assemble (f : Widths) (op b1 b2 b3 : Byte) :
    encode f (assemble op ⟨f, b1, b2, b3⟩) = [op, b1, b2, b3].take ((assemble op ⟨f, b1, b2, b3⟩).len f) := by
  have hc : (op &&& 0x0F#8).toNat = op.toNat % 16 := by
    rw [BitVec.toNat_and]; exact Nat.and_two_pow_sub_one_eq_mod _ 4
  have hr : (op >>> 4).toNat = op.toNat / 16 := by rw [BitVec.toNat_ushiftRight, Nat.shiftRight_eq_div_pow]
  have hop : op = BitVec.ofNat 8 (op.toNat / 16 * 16 + op.toNat % 16) := by
    apply BitVec.eq_of_toNat_eq; rw [BitVec.toNat_ofNat]; omega
  have hlt : op.toNat % 16 < 16 := by omega
  have hlr : op.toNat / 16 < 16 := by omega
  unfold assemble
  rw [hc, hr]
  dsimp only
  generalize op.toNat % 16 = c at *
  generalize op.toNat / 16 = r at *
  subst hop
  interval_cases r
  · exact encode_row0 ⟨f, b1, b2, b3⟩ c hlt
  · exact encode_row1 ⟨f, b1, b2, b3⟩ c hlt
  · exact encode_row2 ⟨f, b1, b2, b3⟩ c hlt
  · exact encode_row3 ⟨f, b1, b2, b3⟩ c hlt
  · exact encode_row4 ⟨f, b1, b2, b3⟩ c hlt
  · exact encode_row5 ⟨f, b1, b2, b3⟩ c hlt
  · exact encode_row6 ⟨f, b1, b2, b3⟩ c hlt
  · exact encode_row7 ⟨f, b1, b2, b3⟩ c hlt
  · exact encode_row8 ⟨f, b1, b2, b3⟩ c hlt
  · exact encode_row9 ⟨f, b1, b2, b3⟩ c hlt
  · exact encode_rowA ⟨f, b1, b2, b3⟩ c hlt
  · exact encode_rowB ⟨f, b1, b2, b3⟩ c hlt
  · exact encode_rowC ⟨f, b1, b2, b3⟩ c hlt
  · exact encode_rowD ⟨f, b1, b2, b3⟩ c hlt
  · exact encode_rowE ⟨f, b1, b2, b3⟩ c hlt
  · exact encode_rowF ⟨f, b1, b2, b3⟩ c hlt

theorem immFits_imm (o : Operands) (flag : Bool) : immFits flag (o.imm flag) = true := by
  cases flag
  · rfl
  · exact beq_iff_eq.2 (hi_zext o.b1)

/-- What a row of the matrix gives is well formed: an immediate is as wide as its flag says. -/
theorem wellFormed_row (o : Operands) (c : Nat) (hc : c < 16) :
    ∀ r ∈ [decodeRow0, decodeRow1, decodeRow2, decodeRow3, decodeRow4, decodeRow5, decodeRow6, decodeRow7,
      decodeRow8, decodeRow9, decodeRowA, decodeRowB, decodeRowC, decodeRowD, decodeRowE, decodeRowF], (r o c).wellFormed o.f = true := by
  simp only [List.mem_cons, List.not_mem_nil, or_false]
  rintro r (rfl | rfl | rfl | rfl | rfl | rfl | rfl | rfl | rfl | rfl | rfl | rfl | rfl | rfl | rfl | rfl) <;>
    interval_cases c <;> first
    | rfl
    | exact immFits_imm _ _

/-- Whatever an opcode and three bytes assemble to is well formed. -/
theorem wellFormed_assemble (f : Widths) (op b1 b2 b3 : Byte) : WellFormed f (assemble op ⟨f, b1, b2, b3⟩) := by
  have hlt : (op &&& 0x0F#8).toNat < 16 := by
    rw [BitVec.toNat_and, show ((0x0F#8).toNat) = 2 ^ 4 - 1 from rfl, Nat.and_two_pow_sub_one_eq_mod]; omega
  unfold assemble WellFormed
  dsimp only
  split <;> exact wellFormed_row ⟨f, b1, b2, b3⟩ _ hlt _ (by simp)

/-- Every instruction is one to four bytes long. -/
theorem len_bounds (f : Widths) (i : Instr) : 1 ≤ i.len f ∧ i.len f ≤ 4 := by
  cases i <;> simp only [Instr.len] <;> (try split) <;> omega

end Sys2Proof
end

