-- ==== Sys2Proof/Laws/Exec.lean ====
section
/-! SUPPORT. What exec answers, said once by the form of the instruction: for every instruction with a data operand the shared
operation it runs, so that a proof takes one case per mnemonic and not one per opcode. -/

namespace Sys2Proof.Machine

/-- The memory mode of an operand; an immediate has none, and the absolute mode stands in for it. -/
def Operand.mode : Operand → MemMode
  | .mem m => m
  | .imm v => .abs v

/-- The shared operation of a data instruction, by its mnemonic. -/
def dataMeaning (mn : Mnemonic) (o : Operand) (s : State) : State :=
  match mn with
  | .lda => loadA o s
  | .ldx => loadX o s
  | .ldy => loadY o s
  | .sta => store s.wA o.mode s.c s
  | .stx => store s.wX o.mode s.x s
  | .sty => store s.wX o.mode s.y s
  | .stz => store s.wA o.mode 0 s
  | .adc => addWithCarry o s
  | .sbc => subtractWithBorrow o s
  | .and => logic (· &&& ·) o s
  | .ora => logic (· ||| ·) o s
  | .eor => logic (· ^^^ ·) o s
  | .cmp => compareWith s.wA s.c o s
  | .cpx => compareWith s.wX s.x o s
  | .cpy => compareWith s.wX s.y o s
  | .bit => match o with
    | .imm v => bitTestImmediate v s
    | .mem m => bitTest m s
  | .asl => shiftMemory asl o.mode s
  | .lsr => shiftMemory lsr o.mode s
  | .rol => shiftMemory rol o.mode s
  | .ror => shiftMemory ror o.mode s
  | .inc => stepMemory incr o.mode s
  | .dec => stepMemory decr o.mode s
  | .tsb => testBits (· ||| ·) o.mode s
  | .trb => testBits (fun m a => m &&& ~~~a) o.mode s
  | _ => s

/-- An instruction with a data operand runs the shared operation of its mnemonic on that operand. -/
theorem exec_data (i : Instr) (o : Operand) (s : State) (h : i.operand? = some o) :
    exec i s = .next (dataMeaning i.mnemonic o s) := by
  cases i <;> cases h <;> rfl

/-- Only a load, an arithmetic or logic instruction, a compare or BIT has an immediate. -/
theorem imm_mnemonic (i : Instr) (v : Word) (h : i.operand? = some (.imm v)) :
    i.mnemonic ∈ [Mnemonic.ora, .and, .eor, .adc, .bit, .ldy, .ldx, .lda, .cpy, .cmp, .cpx, .sbc] := by
  cases i <;> cases h <;> simp [Instr.mnemonic]

end Sys2Proof.Machine
end

