-- ==== Sys2Proof/Laws/Forms.lean ====
section
/-! SUPPORT. The opcode alone selects the mnemonic (30_encoding.md R106, R107), row by row of the opcode matrix. -/

namespace Sys2Proof

-- One proof after the other: in parallel each waits on a thread of its own for the same equations, and memory runs short.
set_option Elab.async false

theorem mnemonic_row0 (o p : Operands) (c : Nat) (hc : c < 16) :
    (decodeRow0 o c).mnemonic = (decodeRow0 p c).mnemonic := by
  interval_cases c <;> simp only [decodeRow0, Instr.mnemonic]

theorem mnemonic_row1 (o p : Operands) (c : Nat) (hc : c < 16) :
    (decodeRow1 o c).mnemonic = (decodeRow1 p c).mnemonic := by
  interval_cases c <;> simp only [decodeRow1, Instr.mnemonic]

theorem mnemonic_row2 (o p : Operands) (c : Nat) (hc : c < 16) :
    (decodeRow2 o c).mnemonic = (decodeRow2 p c).mnemonic := by
  interval_cases c <;> simp only [decodeRow2, Instr.mnemonic]

theorem mnemonic_row3 (o p : Operands) (c : Nat) (hc : c < 16) :
    (decodeRow3 o c).mnemonic = (decodeRow3 p c).mnemonic := by
  interval_cases c <;> simp only [decodeRow3, Instr.mnemonic]

theorem mnemonic_row4 (o p : Operands) (c : Nat) (hc : c < 16) :
    (decodeRow4 o c).mnemonic = (decodeRow4 p c).mnemonic := by
  interval_cases c <;> simp only [decodeRow4, Instr.mnemonic]

theorem mnemonic_row5 (o p : Operands) (c : Nat) (hc : c < 16) :
    (decodeRow5 o c).mnemonic = (decodeRow5 p c).mnemonic := by
  interval_cases c <;> simp only [decodeRow5, Instr.mnemonic]

theorem mnemonic_row6 (o p : Operands) (c : Nat) (hc : c < 16) :
    (decodeRow6 o c).mnemonic = (decodeRow6 p c).mnemonic := by
  interval_cases c <;> simp only [decodeRow6, Instr.mnemonic]

theorem mnemonic_row7 (o p : Operands) (c : Nat) (hc : c < 16) :
    (decodeRow7 o c).mnemonic = (decodeRow7 p c).mnemonic := by
  interval_cases c <;> simp only [decodeRow7, Instr.mnemonic]

theorem mnemonic_row8 (o p : Operands) (c : Nat) (hc : c < 16) :
    (decodeRow8 o c).mnemonic = (decodeRow8 p c).mnemonic := by
  interval_cases c <;> simp only [decodeRow8, Instr.mnemonic]

theorem mnemonic_row9 (o p : Operands) (c : Nat) (hc : c < 16) :
    (decodeRow9 o c).mnemonic = (decodeRow9 p c).mnemonic := by
  interval_cases c <;> simp only [decodeRow9, Instr.mnemonic]

theorem mnemonic_rowA (o p : Operands) (c : Nat) (hc : c < 16) :
    (decodeRowA o c).mnemonic = (decodeRowA p c).mnemonic := by
  interval_cases c <;> simp only [decodeRowA, Instr.mnemonic]

theorem mnemonic_rowB (o p : Operands) (c : Nat) (hc : c < 16) :
    (decodeRowB o c).mnemonic = (decodeRowB p c).mnemonic := by
  interval_cases c <;> simp only [decodeRowB, Instr.mnemonic]

theorem mnemonic_rowC (o p : Operands) (c : Nat) (hc : c < 16) :
    (decodeRowC o c).mnemonic = (decodeRowC p c).mnemonic := by
  interval_cases c <;> simp only [decodeRowC, Instr.mnemonic]

theorem mnemonic_rowD (o p : Operands) (c : Nat) (hc : c < 16) :
    (decodeRowD o c).mnemonic = (decodeRowD p c).mnemonic := by
  interval_cases c <;> simp only [decodeRowD, Instr.mnemonic]

theorem mnemonic_rowE (o p : Operands) (c : Nat) (hc : c < 16) :
    (decodeRowE o c).mnemonic = (decodeRowE p c).mnemonic := by
  interval_cases c <;> simp only [decodeRowE, Instr.mnemonic]

theorem mnemonic_rowF (o p : Operands) (c : Nat) (hc : c < 16) :
    (decodeRowF o c).mnemonic = (decodeRowF p c).mnemonic := by
  interval_cases c <;> simp only [decodeRowF, Instr.mnemonic]

/-- The mnemonic of what an opcode assembles to does not depend on the operand bytes nor on the width flags. -/
theorem mnemonic_assemble (op : Byte) (o p : Operands) : (assemble op o).mnemonic = (assemble op p).mnemonic := by
  have hlt : (op &&& 0x0F#8).toNat < 16 := by
    rw [BitVec.toNat_and, show ((0x0F#8).toNat) = 2 ^ 4 - 1 from rfl, Nat.and_two_pow_sub_one_eq_mod]; omega
  unfold assemble
  dsimp only
  generalize (op &&& 0x0F#8).toNat = c at *
  split
  · exact mnemonic_row0 o p c hlt
  · exact mnemonic_row1 o p c hlt
  · exact mnemonic_row2 o p c hlt
  · exact mnemonic_row3 o p c hlt
  · exact mnemonic_row4 o p c hlt
  · exact mnemonic_row5 o p c hlt
  · exact mnemonic_row6 o p c hlt
  · exact mnemonic_row7 o p c hlt
  · exact mnemonic_row8 o p c hlt
  · exact mnemonic_row9 o p c hlt
  · exact mnemonic_rowA o p c hlt
  · exact mnemonic_rowB o p c hlt
  · exact mnemonic_rowC o p c hlt
  · exact mnemonic_rowD o p c hlt
  · exact mnemonic_rowE o p c hlt
  · exact mnemonic_rowF o p c hlt

end Sys2Proof
end

