-- ==== Sys2Proof/Laws/Invariants.lean ====
section
/-! SUPPORT. The invariants of the mode bits (10_state.md R34) through every shared operation. -/

namespace Sys2Proof.Machine

/-! ### Operations that touch none of P, E, S, X, Y -/

@[simp] theorem modeInv_advance (s : State) (n : Nat) : ModeInv (s.advance n) ↔ ModeInv s := Iff.rfl
@[simp] theorem modeInv_jump (s : State) (v : Word) : ModeInv (s.jump v) ↔ ModeInv s := Iff.rfl
@[simp] theorem modeInv_setPbr (s : State) (v : Byte) : ModeInv (s.setPbr v) ↔ ModeInv s := Iff.rfl
@[simp] theorem modeInv_setDbr (s : State) (v : Byte) : ModeInv (s.setDbr v) ↔ ModeInv s := Iff.rfl
@[simp] theorem modeInv_setDirect (s : State) (v : Word) : ModeInv (s.setDirect v) ↔ ModeInv s := Iff.rfl
@[simp] theorem modeInv_setC16 (s : State) (v : Word) : ModeInv (s.setC16 v) ↔ ModeInv s := Iff.rfl
@[simp] theorem modeInv_writeByte (s : State) (a : Addr) (v : Byte) : ModeInv (s.writeByte a v) ↔ ModeInv s := Iff.rfl
@[simp] theorem modeInv_draw (s : State) : ModeInv s.draw ↔ ModeInv s := Iff.rfl
@[simp] theorem modeInv_latchNmi (s : State) : ModeInv s.latchNmi ↔ ModeInv s := Iff.rfl
@[simp] theorem modeInv_latchAbort (s : State) : ModeInv s.latchAbort ↔ ModeInv s := Iff.rfl

@[simp] theorem modeInv_setA (s : State) (w : Width) (v : Word) : ModeInv (s.setA w v) ↔ ModeInv s := by
  cases w <;> exact Iff.rfl
@[simp] theorem modeInv_writeLoc (s : State) (w : Width) (l : Loc) (v : Word) : ModeInv (s.writeLoc w l v) ↔ ModeInv s := by
  cases w <;> exact Iff.rfl
@[simp] theorem modeInv_writeBack (s : State) (w : Width) (l : Loc) (v : Word) : ModeInv (s.writeBack w l v) ↔ ModeInv s := by
  cases w <;> exact Iff.rfl
@[simp] theorem modeInv_clearLatch (s : State) (k : IntKind) : ModeInv (clearLatch k s) ↔ ModeInv s := by
  cases k <;> exact Iff.rfl
@[simp] theorem modeInv_sample (s : State) : ModeInv s.sample ↔ ModeInv s := by
  unfold State.sample; split <;> exact Iff.rfl
@[simp] theorem modeInv_settleMX (s : State) (i : Instr) : ModeInv (settleMX i s) ↔ ModeInv s := by
  unfold settleMX; split <;> exact Iff.rfl

/-! ### Flags other than M and X -/

theorem modeInv_setFlag (s : State) (i : Nat) (v : Bool) (h5 : i ≠ 5) (h4 : i ≠ 4) :
    ModeInv (s.setFlag i v) ↔ ModeInv s := by
  have e5 : (s.setFlag i v).fM = s.fM := by simp [State.fM, h5.symm]
  have e4 : (s.setFlag i v).fX = s.fX := by simp [State.fX, h4.symm]
  unfold ModeInv
  rw [e5, e4]; rfl

@[simp] theorem modeInv_setN (s : State) (v : Bool) : ModeInv (s.setN v) ↔ ModeInv s :=
  modeInv_setFlag s 7 v (by omega) (by omega)
@[simp] theorem modeInv_setV (s : State) (v : Bool) : ModeInv (s.setV v) ↔ ModeInv s :=
  modeInv_setFlag s 6 v (by omega) (by omega)
@[simp] theorem modeInv_setD (s : State) (v : Bool) : ModeInv (s.setD v) ↔ ModeInv s :=
  modeInv_setFlag s 3 v (by omega) (by omega)
@[simp] theorem modeInv_setI (s : State) (v : Bool) : ModeInv (s.setI v) ↔ ModeInv s :=
  modeInv_setFlag s 2 v (by omega) (by omega)
@[simp] theorem modeInv_setZ (s : State) (v : Bool) : ModeInv (s.setZ v) ↔ ModeInv s :=
  modeInv_setFlag s 1 v (by omega) (by omega)
@[simp] theorem modeInv_setC (s : State) (v : Bool) : ModeInv (s.setC v) ↔ ModeInv s :=
  modeInv_setFlag s 0 v (by omega) (by omega)
@[simp] theorem modeInv_setNZ (s : State) (w : Width) (v : Word) : ModeInv (s.setNZ w v) ↔ ModeInv s :=
  (modeInv_setZ _ _).trans (modeInv_setN _ _)

/-! ### Index registers -/

/-- An index register written at its own width keeps the invariants (10_state.md R23). -/
theorem modeInv_setX (s : State) (w : Width) (v : Word) (h : ModeInv s) (hw : s.fX = true → w = .w8) :
    ModeInv (s.setX w v) := by
  refine ⟨h.1, h.2.1, fun hx => ⟨?_, (h.2.2 hx).2⟩⟩
  rw [hw hx]; exact hi_zext _

theorem modeInv_setY (s : State) (w : Width) (v : Word) (h : ModeInv s) (hw : s.fX = true → w = .w8) :
    ModeInv (s.setY w v) := by
  refine ⟨h.1, h.2.1, fun hx => ⟨(h.2.2 hx).1, ?_⟩⟩
  rw [hw hx]; exact hi_zext _

/-! ### S -/

theorem modeInv_sp (s : State) (v : Word) (h : ModeInv s) (hv : s.e = true → hi v = 0x01) : ModeInv { s with sp := v } :=
  ⟨h.1, hv, h.2.2⟩

theorem hi_spStep (e : Bool) (sp v : Word) (h : e = true → hi sp = 0x01) : e = true → hi (spStep e sp v) = 0x01 := by
  rintro rfl; simpa [spStep] using h rfl

theorem hi_forcedSp (e : Bool) (v : Word) : e = true → hi (forcedSp e v) = 0x01 := by rintro rfl; simp [forcedSp]

theorem modeInv_setSpMode (s : State) (v : Word) (h : ModeInv s) : ModeInv (s.setSpMode v) :=
  modeInv_sp s _ h (hi_forcedSp _ _)

/-- Whatever S was, `if E = 1 then SH <- 01` gives the invariants back. -/
theorem modeInv_fixSh (s : State) (hm : s.e = true → s.fM = true ∧ s.fX = true)
    (hx : s.fX = true → hi s.x = 0x00 ∧ hi s.y = 0x00) : ModeInv s.fixSh := ⟨hm, hi_forcedSp _ _, hx⟩

theorem modeInv_push8 (s : State) (v : Byte) (h : ModeInv s) : ModeInv (s.push8 v) :=
  modeInv_sp (s.writeByte (addr 0 s.sp) v) _ h (hi_spStep _ _ _ h.2.1)

theorem modeInv_push16 (s : State) (v : Word) (h : ModeInv s) : ModeInv (s.push16 v) :=
  modeInv_push8 _ _ (modeInv_push8 _ _ h)

theorem modeInv_pull8 (s : State) (h : ModeInv s) : ModeInv s.pull8.2 := modeInv_sp s _ h (hi_spStep _ _ _ h.2.1)

theorem modeInv_pull16 (s : State) (h : ModeInv s) : ModeInv s.pull16.2 := modeInv_pull8 _ (modeInv_pull8 _ h)

theorem modeInv_pull (s : State) (w : Width) (h : ModeInv s) : ModeInv (s.pull w).2 := by
  cases w
  · exact modeInv_pull8 s h
  · exact modeInv_pull16 s h

/-- Two states that agree on P, E, X and Y, the second with SH = 01 in emulation mode. -/
theorem modeInv_of (s t : State) (h : ModeInv s) (hp : t.p = s.p) (he : t.e = s.e) (hx : t.x = s.x) (hy : t.y = s.y)
    (hs : t.e = true → hi t.sp = 0x01) : ModeInv t := by
  unfold ModeInv State.fM State.fX
  rw [hp, hx, hy]
  exact ⟨fun h1 => h.1 (he ▸ h1), hs, h.2.2⟩

/-! ### P and E -/

theorem modeInv_writeP (s : State) (v : Byte) (h : ModeInv s) : ModeInv (s.writeP v) := by
  refine ⟨fun he => ?_, ?_, fun hx => ?_⟩
  · rw [writeP_e] at he; simp [State.fM, State.fX, forcedP, he]
  · rw [writeP_e, writeP_sp]; exact h.2.1
  · have hx' : (forcedP s.e v).getLsbD 4 = true := hx
    rw [writeP_x_value, writeP_y_value, hx']; simp [narrowIndex]

theorem modeInv_setE (s : State) (v : Bool) (h : ModeInv s) : ModeInv (s.setE v) := by
  refine ⟨fun he => ?_, fun he => ?_, fun hx => ?_⟩
  · simp only [setE_value] at he; simp [State.fM, State.fX, forcedP, he]
  · simp only [setE_value] at he; subst he; simp [forcedSp]
  · cases v
    · have : s.fX = true := hx
      simpa [narrowIndex] using h.2.2 this
    · simp [narrowIndex]

/-! ### Interrupts -/

theorem modeInv_pushFrame (k : IntKind) (r : Word) (s : State) (h : ModeInv s) : ModeInv (pushFrame k r s) := by
  unfold pushFrame
  refine modeInv_push8 _ _ (modeInv_push16 _ _ ?_)
  split
  · exact h
  · exact modeInv_push8 _ _ h

theorem modeInv_interrupt (k : IntKind) (r : Word) (s : State) (h : ModeInv s) : ModeInv (interrupt k r s) := by
  unfold interrupt enterHandlerMode
  simpa using modeInv_pushFrame k r s h

theorem modeInv_returnFromInterrupt (s : State) (h : ModeInv s) : ModeInv (returnFromInterrupt s) := by
  have h1 := modeInv_pull16 _ (modeInv_writeP _ s.pull8.1 (modeInv_pull8 s h))
  unfold returnFromInterrupt
  dsimp only
  split
  · exact h1
  · exact modeInv_pull8 _ h1

end Sys2Proof.Machine
end

