-- ==== Sys2Proof/Laws/PerInstr.lean ====
section
/-! SUPPORT. The two families of facts about every instruction as syntax, one lemma per constructor: its encoding is as long as
its length says, and the bytes of its encoding assemble to it again. -/

namespace Sys2Proof.Laws

open Machine

/-- The encoding of an instruction has the length that 30_encoding.md R100 to R103 give it. -/
def EncodeLength.Statement (i : Instr) : Prop := ∀ f : Widths, (encode f i).length = i.len f

/-- The bytes of a well-formed instruction, with whatever follows them, assemble to it (30_encoding.md R101, R104). -/
def Reassemble.Statement (i : Instr) : Prop :=
  ∀ (f : Widths) (rest : List Byte), WellFormed f i →
    ∃ op l, encode f i ++ rest = op :: l ∧ assemble op ⟨f, l.getD 0 0, l.getD 1 0, l.getD 2 0⟩ = i

theorem addr_parts (a : Addr) : addr (bankOf a) (word (hi (offOf a)) (lo (offOf a))) = a := by simp

theorem immBytes_length (flag : Bool) (v : Word) (op : Byte) :
    (op :: immBytes flag v).length = if flag then 2 else 3 := by
  cases flag <;> rfl

/-- The immediate read back from its bytes. -/
theorem imm_parts (f : Widths) (flag : Bool) (v : Word) (rest : List Byte) (h : immFits flag v = true) :
    let l := immBytes flag v ++ rest
    Operands.imm ⟨f, l.getD 0 0, l.getD 1 0, l.getD 2 0⟩ flag = v := by
  cases flag
  · exact word_hi_lo v
  · have h0 : hi v = 0 := by simpa [immFits] using h
    change word 0 (lo v) = v
    rw [← h0]; exact word_hi_lo v

theorem EncodeLength.brk (sig : Byte) : EncodeLength.Statement (.brk sig) := fun _ => rfl
theorem EncodeLength.oraDirIndX (dOff : Byte) : EncodeLength.Statement (.oraDirIndX dOff) := fun _ => rfl
theorem EncodeLength.cop (sig : Byte) : EncodeLength.Statement (.cop sig) := fun _ => rfl
theorem EncodeLength.oraSr (so : Byte) : EncodeLength.Statement (.oraSr so) := fun _ => rfl
theorem EncodeLength.tsbDir (dOff : Byte) : EncodeLength.Statement (.tsbDir dOff) := fun _ => rfl
theorem EncodeLength.oraDir (dOff : Byte) : EncodeLength.Statement (.oraDir dOff) := fun _ => rfl
theorem EncodeLength.aslDir (dOff : Byte) : EncodeLength.Statement (.aslDir dOff) := fun _ => rfl
theorem EncodeLength.oraDirIndLong (dOff : Byte) : EncodeLength.Statement (.oraDirIndLong dOff) := fun _ => rfl
theorem EncodeLength.php : EncodeLength.Statement .php := fun _ => rfl
theorem EncodeLength.oraImm (imm : Word) : EncodeLength.Statement (.oraImm imm) := fun f => immBytes_length f.m imm _
theorem EncodeLength.aslAcc : EncodeLength.Statement .aslAcc := fun _ => rfl
theorem EncodeLength.phd : EncodeLength.Statement .phd := fun _ => rfl
theorem EncodeLength.tsbAbs (aa : Word) : EncodeLength.Statement (.tsbAbs aa) := fun _ => rfl
theorem EncodeLength.oraAbs (aa : Word) : EncodeLength.Statement (.oraAbs aa) := fun _ => rfl
theorem EncodeLength.aslAbs (aa : Word) : EncodeLength.Statement (.aslAbs aa) := fun _ => rfl
theorem EncodeLength.oraLong (aal : Addr) : EncodeLength.Statement (.oraLong aal) := fun _ => rfl
theorem EncodeLength.bpl (off : Byte) : EncodeLength.Statement (.bpl off) := fun _ => rfl
theorem EncodeLength.oraDirIndY (dOff : Byte) : EncodeLength.Statement (.oraDirIndY dOff) := fun _ => rfl
theorem EncodeLength.oraDirInd (dOff : Byte) : EncodeLength.Statement (.oraDirInd dOff) := fun _ => rfl
theorem EncodeLength.oraSrIndY (so : Byte) : EncodeLength.Statement (.oraSrIndY so) := fun _ => rfl
theorem EncodeLength.trbDir (dOff : Byte) : EncodeLength.Statement (.trbDir dOff) := fun _ => rfl
theorem EncodeLength.oraDirX (dOff : Byte) : EncodeLength.Statement (.oraDirX dOff) := fun _ => rfl
theorem EncodeLength.aslDirX (dOff : Byte) : EncodeLength.Statement (.aslDirX dOff) := fun _ => rfl
theorem EncodeLength.oraDirIndLongY (dOff : Byte) : EncodeLength.Statement (.oraDirIndLongY dOff) := fun _ => rfl
theorem EncodeLength.clc : EncodeLength.Statement .clc := fun _ => rfl
theorem EncodeLength.oraAbsY (aa : Word) : EncodeLength.Statement (.oraAbsY aa) := fun _ => rfl
theorem EncodeLength.incAcc : EncodeLength.Statement .incAcc := fun _ => rfl
theorem EncodeLength.tcs : EncodeLength.Statement .tcs := fun _ => rfl
theorem EncodeLength.trbAbs (aa : Word) : EncodeLength.Statement (.trbAbs aa) := fun _ => rfl
theorem EncodeLength.oraAbsX (aa : Word) : EncodeLength.Statement (.oraAbsX aa) := fun _ => rfl
theorem EncodeLength.aslAbsX (aa : Word) : EncodeLength.Statement (.aslAbsX aa) := fun _ => rfl
theorem EncodeLength.oraLongX (aal : Addr) : EncodeLength.Statement (.oraLongX aal) := fun _ => rfl
theorem EncodeLength.jsrAbs (aa : Word) : EncodeLength.Statement (.jsrAbs aa) := fun _ => rfl
theorem EncodeLength.andDirIndX (dOff : Byte) : EncodeLength.Statement (.andDirIndX dOff) := fun _ => rfl
theorem EncodeLength.jsl (aal : Addr) : EncodeLength.Statement (.jsl aal) := fun _ => rfl
theorem EncodeLength.andSr (so : Byte) : EncodeLength.Statement (.andSr so) := fun _ => rfl
theorem EncodeLength.bitDir (dOff : Byte) : EncodeLength.Statement (.bitDir dOff) := fun _ => rfl
theorem EncodeLength.andDir (dOff : Byte) : EncodeLength.Statement (.andDir dOff) := fun _ => rfl
theorem EncodeLength.rolDir (dOff : Byte) : EncodeLength.Statement (.rolDir dOff) := fun _ => rfl
theorem EncodeLength.andDirIndLong (dOff : Byte) : EncodeLength.Statement (.andDirIndLong dOff) := fun _ => rfl
theorem EncodeLength.plp : EncodeLength.Statement .plp := fun _ => rfl
theorem EncodeLength.andImm (imm : Word) : EncodeLength.Statement (.andImm imm) := fun f => immBytes_length f.m imm _
theorem EncodeLength.rolAcc : EncodeLength.Statement .rolAcc := fun _ => rfl
theorem EncodeLength.pld : EncodeLength.Statement .pld := fun _ => rfl
theorem EncodeLength.bitAbs (aa : Word) : EncodeLength.Statement (.bitAbs aa) := fun _ => rfl
theorem EncodeLength.andAbs (aa : Word) : EncodeLength.Statement (.andAbs aa) := fun _ => rfl
theorem EncodeLength.rolAbs (aa : Word) : EncodeLength.Statement (.rolAbs aa) := fun _ => rfl
theorem EncodeLength.andLong (aal : Addr) : EncodeLength.Statement (.andLong aal) := fun _ => rfl
theorem EncodeLength.bmi (off : Byte) : EncodeLength.Statement (.bmi off) := fun _ => rfl
theorem EncodeLength.andDirIndY (dOff : Byte) : EncodeLength.Statement (.andDirIndY dOff) := fun _ => rfl
theorem EncodeLength.andDirInd (dOff : Byte) : EncodeLength.Statement (.andDirInd dOff) := fun _ => rfl
theorem EncodeLength.andSrIndY (so : Byte) : EncodeLength.Statement (.andSrIndY so) := fun _ => rfl
theorem EncodeLength.bitDirX (dOff : Byte) : EncodeLength.Statement (.bitDirX dOff) := fun _ => rfl
theorem EncodeLength.andDirX (dOff : Byte) : EncodeLength.Statement (.andDirX dOff) := fun _ => rfl
theorem EncodeLength.rolDirX (dOff : Byte) : EncodeLength.Statement (.rolDirX dOff) := fun _ => rfl
theorem EncodeLength.andDirIndLongY (dOff : Byte) : EncodeLength.Statement (.andDirIndLongY dOff) := fun _ => rfl
theorem EncodeLength.sec : EncodeLength.Statement .sec := fun _ => rfl
theorem EncodeLength.andAbsY (aa : Word) : EncodeLength.Statement (.andAbsY aa) := fun _ => rfl
theorem EncodeLength.decAcc : EncodeLength.Statement .decAcc := fun _ => rfl
theorem EncodeLength.tsc : EncodeLength.Statement .tsc := fun _ => rfl
theorem EncodeLength.bitAbsX (aa : Word) : EncodeLength.Statement (.bitAbsX aa) := fun _ => rfl
theorem EncodeLength.andAbsX (aa : Word) : EncodeLength.Statement (.andAbsX aa) := fun _ => rfl
theorem EncodeLength.rolAbsX (aa : Word) : EncodeLength.Statement (.rolAbsX aa) := fun _ => rfl
theorem EncodeLength.andLongX (aal : Addr) : EncodeLength.Statement (.andLongX aal) := fun _ => rfl
theorem EncodeLength.rti : EncodeLength.Statement .rti := fun _ => rfl
theorem EncodeLength.eorDirIndX (dOff : Byte) : EncodeLength.Statement (.eorDirIndX dOff) := fun _ => rfl
theorem EncodeLength.wdm (ignored : Byte) : EncodeLength.Statement (.wdm ignored) := fun _ => rfl
theorem EncodeLength.eorSr (so : Byte) : EncodeLength.Statement (.eorSr so) := fun _ => rfl
theorem EncodeLength.mvp (dba : Byte) (sba : Byte) : EncodeLength.Statement (.mvp dba sba) := fun _ => rfl
theorem EncodeLength.eorDir (dOff : Byte) : EncodeLength.Statement (.eorDir dOff) := fun _ => rfl
theorem EncodeLength.lsrDir (dOff : Byte) : EncodeLength.Statement (.lsrDir dOff) := fun _ => rfl
theorem EncodeLength.eorDirIndLong (dOff : Byte) : EncodeLength.Statement (.eorDirIndLong dOff) := fun _ => rfl
theorem EncodeLength.pha : EncodeLength.Statement .pha := fun _ => rfl
theorem EncodeLength.eorImm (imm : Word) : EncodeLength.Statement (.eorImm imm) := fun f => immBytes_length f.m imm _
theorem EncodeLength.lsrAcc : EncodeLength.Statement .lsrAcc := fun _ => rfl
theorem EncodeLength.phk : EncodeLength.Statement .phk := fun _ => rfl
theorem EncodeLength.jmpAbs (aa : Word) : EncodeLength.Statement (.jmpAbs aa) := fun _ => rfl
theorem EncodeLength.eorAbs (aa : Word) : EncodeLength.Statement (.eorAbs aa) := fun _ => rfl
theorem EncodeLength.lsrAbs (aa : Word) : EncodeLength.Statement (.lsrAbs aa) := fun _ => rfl
theorem EncodeLength.eorLong (aal : Addr) : EncodeLength.Statement (.eorLong aal) := fun _ => rfl
theorem EncodeLength.bvc (off : Byte) : EncodeLength.Statement (.bvc off) := fun _ => rfl
theorem EncodeLength.eorDirIndY (dOff : Byte) : EncodeLength.Statement (.eorDirIndY dOff) := fun _ => rfl
theorem EncodeLength.eorDirInd (dOff : Byte) : EncodeLength.Statement (.eorDirInd dOff) := fun _ => rfl
theorem EncodeLength.eorSrIndY (so : Byte) : EncodeLength.Statement (.eorSrIndY so) := fun _ => rfl
theorem EncodeLength.mvn (dba : Byte) (sba : Byte) : EncodeLength.Statement (.mvn dba sba) := fun _ => rfl
theorem EncodeLength.eorDirX (dOff : Byte) : EncodeLength.Statement (.eorDirX dOff) := fun _ => rfl
theorem EncodeLength.lsrDirX (dOff : Byte) : EncodeLength.Statement (.lsrDirX dOff) := fun _ => rfl
theorem EncodeLength.eorDirIndLongY (dOff : Byte) : EncodeLength.Statement (.eorDirIndLongY dOff) := fun _ => rfl
theorem EncodeLength.cli : EncodeLength.Statement .cli := fun _ => rfl
theorem EncodeLength.eorAbsY (aa : Word) : EncodeLength.Statement (.eorAbsY aa) := fun _ => rfl
theorem EncodeLength.phy : EncodeLength.Statement .phy := fun _ => rfl
theorem EncodeLength.tcd : EncodeLength.Statement .tcd := fun _ => rfl
theorem EncodeLength.jmpLong (aal : Addr) : EncodeLength.Statement (.jmpLong aal) := fun _ => rfl
theorem EncodeLength.eorAbsX (aa : Word) : EncodeLength.Statement (.eorAbsX aa) := fun _ => rfl
theorem EncodeLength.lsrAbsX (aa : Word) : EncodeLength.Statement (.lsrAbsX aa) := fun _ => rfl
theorem EncodeLength.eorLongX (aal : Addr) : EncodeLength.Statement (.eorLongX aal) := fun _ => rfl
theorem EncodeLength.rts : EncodeLength.Statement .rts := fun _ => rfl
theorem EncodeLength.adcDirIndX (dOff : Byte) : EncodeLength.Statement (.adcDirIndX dOff) := fun _ => rfl
theorem EncodeLength.per (off : Word) : EncodeLength.Statement (.per off) := fun _ => rfl
theorem EncodeLength.adcSr (so : Byte) : EncodeLength.Statement (.adcSr so) := fun _ => rfl
theorem EncodeLength.stzDir (dOff : Byte) : EncodeLength.Statement (.stzDir dOff) := fun _ => rfl
theorem EncodeLength.adcDir (dOff : Byte) : EncodeLength.Statement (.adcDir dOff) := fun _ => rfl
theorem EncodeLength.rorDir (dOff : Byte) : EncodeLength.Statement (.rorDir dOff) := fun _ => rfl
theorem EncodeLength.adcDirIndLong (dOff : Byte) : EncodeLength.Statement (.adcDirIndLong dOff) := fun _ => rfl
theorem EncodeLength.pla : EncodeLength.Statement .pla := fun _ => rfl
theorem EncodeLength.adcImm (imm : Word) : EncodeLength.Statement (.adcImm imm) := fun f => immBytes_length f.m imm _
theorem EncodeLength.rorAcc : EncodeLength.Statement .rorAcc := fun _ => rfl
theorem EncodeLength.rtl : EncodeLength.Statement .rtl := fun _ => rfl
theorem EncodeLength.jmpAbsInd (aa : Word) : EncodeLength.Statement (.jmpAbsInd aa) := fun _ => rfl
theorem EncodeLength.adcAbs (aa : Word) : EncodeLength.Statement (.adcAbs aa) := fun _ => rfl
theorem EncodeLength.rorAbs (aa : Word) : EncodeLength.Statement (.rorAbs aa) := fun _ => rfl
theorem EncodeLength.adcLong (aal : Addr) : EncodeLength.Statement (.adcLong aal) := fun _ => rfl
theorem EncodeLength.bvs (off : Byte) : EncodeLength.Statement (.bvs off) := fun _ => rfl
theorem EncodeLength.adcDirIndY (dOff : Byte) : EncodeLength.Statement (.adcDirIndY dOff) := fun _ => rfl
theorem EncodeLength.adcDirInd (dOff : Byte) : EncodeLength.Statement (.adcDirInd dOff) := fun _ => rfl
theorem EncodeLength.adcSrIndY (so : Byte) : EncodeLength.Statement (.adcSrIndY so) := fun _ => rfl
theorem EncodeLength.stzDirX (dOff : Byte) : EncodeLength.Statement (.stzDirX dOff) := fun _ => rfl
theorem EncodeLength.adcDirX (dOff : Byte) : EncodeLength.Statement (.adcDirX dOff) := fun _ => rfl
theorem EncodeLength.rorDirX (dOff : Byte) : EncodeLength.Statement (.rorDirX dOff) := fun _ => rfl
theorem EncodeLength.adcDirIndLongY (dOff : Byte) : EncodeLength.Statement (.adcDirIndLongY dOff) := fun _ => rfl
theorem EncodeLength.sei : EncodeLength.Statement .sei := fun _ => rfl
theorem EncodeLength.adcAbsY (aa : Word) : EncodeLength.Statement (.adcAbsY aa) := fun _ => rfl
theorem EncodeLength.ply : EncodeLength.Statement .ply := fun _ => rfl
theorem EncodeLength.tdc : EncodeLength.Statement .tdc := fun _ => rfl
theorem EncodeLength.jmpAbsIndX (aa : Word) : EncodeLength.Statement (.jmpAbsIndX aa) := fun _ => rfl
theorem EncodeLength.adcAbsX (aa : Word) : EncodeLength.Statement (.adcAbsX aa) := fun _ => rfl
theorem EncodeLength.rorAbsX (aa : Word) : EncodeLength.Statement (.rorAbsX aa) := fun _ => rfl
theorem EncodeLength.adcLongX (aal : Addr) : EncodeLength.Statement (.adcLongX aal) := fun _ => rfl
theorem EncodeLength.bra (off : Byte) : EncodeLength.Statement (.bra off) := fun _ => rfl
theorem EncodeLength.staDirIndX (dOff : Byte) : EncodeLength.Statement (.staDirIndX dOff) := fun _ => rfl
theorem EncodeLength.brl (off : Word) : EncodeLength.Statement (.brl off) := fun _ => rfl
theorem EncodeLength.staSr (so : Byte) : EncodeLength.Statement (.staSr so) := fun _ => rfl
theorem EncodeLength.styDir (dOff : Byte) : EncodeLength.Statement (.styDir dOff) := fun _ => rfl
theorem EncodeLength.staDir (dOff : Byte) : EncodeLength.Statement (.staDir dOff) := fun _ => rfl
theorem EncodeLength.stxDir (dOff : Byte) : EncodeLength.Statement (.stxDir dOff) := fun _ => rfl
theorem EncodeLength.staDirIndLong (dOff : Byte) : EncodeLength.Statement (.staDirIndLong dOff) := fun _ => rfl
theorem EncodeLength.dey : EncodeLength.Statement .dey := fun _ => rfl
theorem EncodeLength.bitImm (imm : Word) : EncodeLength.Statement (.bitImm imm) := fun f => immBytes_length f.m imm _
theorem EncodeLength.txa : EncodeLength.Statement .txa := fun _ => rfl
theorem EncodeLength.phb : EncodeLength.Statement .phb := fun _ => rfl
theorem EncodeLength.styAbs (aa : Word) : EncodeLength.Statement (.styAbs aa) := fun _ => rfl
theorem EncodeLength.staAbs (aa : Word) : EncodeLength.Statement (.staAbs aa) := fun _ => rfl
theorem EncodeLength.stxAbs (aa : Word) : EncodeLength.Statement (.stxAbs aa) := fun _ => rfl
theorem EncodeLength.staLong (aal : Addr) : EncodeLength.Statement (.staLong aal) := fun _ => rfl
theorem EncodeLength.bcc (off : Byte) : EncodeLength.Statement (.bcc off) := fun _ => rfl
theorem EncodeLength.staDirIndY (dOff : Byte) : EncodeLength.Statement (.staDirIndY dOff) := fun _ => rfl
theorem EncodeLength.staDirInd (dOff : Byte) : EncodeLength.Statement (.staDirInd dOff) := fun _ => rfl
theorem EncodeLength.staSrIndY (so : Byte) : EncodeLength.Statement (.staSrIndY so) := fun _ => rfl
theorem EncodeLength.styDirX (dOff : Byte) : EncodeLength.Statement (.styDirX dOff) := fun _ => rfl
theorem EncodeLength.staDirX (dOff : Byte) : EncodeLength.Statement (.staDirX dOff) := fun _ => rfl
theorem EncodeLength.stxDirY (dOff : Byte) : EncodeLength.Statement (.stxDirY dOff) := fun _ => rfl
theorem EncodeLength.staDirIndLongY (dOff : Byte) : EncodeLength.Statement (.staDirIndLongY dOff) := fun _ => rfl
theorem EncodeLength.tya : EncodeLength.Statement .tya := fun _ => rfl
theorem EncodeLength.staAbsY (aa : Word) : EncodeLength.Statement (.staAbsY aa) := fun _ => rfl
theorem EncodeLength.txs : EncodeLength.Statement .txs := fun _ => rfl
theorem EncodeLength.txy : EncodeLength.Statement .txy := fun _ => rfl
theorem EncodeLength.stzAbs (aa : Word) : EncodeLength.Statement (.stzAbs aa) := fun _ => rfl
theorem EncodeLength.staAbsX (aa : Word) : EncodeLength.Statement (.staAbsX aa) := fun _ => rfl
theorem EncodeLength.stzAbsX (aa : Word) : EncodeLength.Statement (.stzAbsX aa) := fun _ => rfl
theorem EncodeLength.staLongX (aal : Addr) : EncodeLength.Statement (.staLongX aal) := fun _ => rfl
theorem EncodeLength.ldyImm (imm : Word) : EncodeLength.Statement (.ldyImm imm) := fun f => immBytes_length f.x imm _
theorem EncodeLength.ldaDirIndX (dOff : Byte) : EncodeLength.Statement (.ldaDirIndX dOff) := fun _ => rfl
theorem EncodeLength.ldxImm (imm : Word) : EncodeLength.Statement (.ldxImm imm) := fun f => immBytes_length f.x imm _
theorem EncodeLength.ldaSr (so : Byte) : EncodeLength.Statement (.ldaSr so) := fun _ => rfl
theorem EncodeLength.ldyDir (dOff : Byte) : EncodeLength.Statement (.ldyDir dOff) := fun _ => rfl
theorem EncodeLength.ldaDir (dOff : Byte) : EncodeLength.Statement (.ldaDir dOff) := fun _ => rfl
theorem EncodeLength.ldxDir (dOff : Byte) : EncodeLength.Statement (.ldxDir dOff) := fun _ => rfl
theorem EncodeLength.ldaDirIndLong (dOff : Byte) : EncodeLength.Statement (.ldaDirIndLong dOff) := fun _ => rfl
theorem EncodeLength.tay : EncodeLength.Statement .tay := fun _ => rfl
theorem EncodeLength.ldaImm (imm : Word) : EncodeLength.Statement (.ldaImm imm) := fun f => immBytes_length f.m imm _
theorem EncodeLength.tax : EncodeLength.Statement .tax := fun _ => rfl
theorem EncodeLength.plb : EncodeLength.Statement .plb := fun _ => rfl
theorem EncodeLength.ldyAbs (aa : Word) : EncodeLength.Statement (.ldyAbs aa) := fun _ => rfl
theorem EncodeLength.ldaAbs (aa : Word) : EncodeLength.Statement (.ldaAbs aa) := fun _ => rfl
theorem EncodeLength.ldxAbs (aa : Word) : EncodeLength.Statement (.ldxAbs aa) := fun _ => rfl
theorem EncodeLength.ldaLong (aal : Addr) : EncodeLength.Statement (.ldaLong aal) := fun _ => rfl
theorem EncodeLength.bcs (off : Byte) : EncodeLength.Statement (.bcs off) := fun _ => rfl
theorem EncodeLength.ldaDirIndY (dOff : Byte) : EncodeLength.Statement (.ldaDirIndY dOff) := fun _ => rfl
theorem EncodeLength.ldaDirInd (dOff : Byte) : EncodeLength.Statement (.ldaDirInd dOff) := fun _ => rfl
theorem EncodeLength.ldaSrIndY (so : Byte) : EncodeLength.Statement (.ldaSrIndY so) := fun _ => rfl
theorem EncodeLength.ldyDirX (dOff : Byte) : EncodeLength.Statement (.ldyDirX dOff) := fun _ => rfl
theorem EncodeLength.ldaDirX (dOff : Byte) : EncodeLength.Statement (.ldaDirX dOff) := fun _ => rfl
theorem EncodeLength.ldxDirY (dOff : Byte) : EncodeLength.Statement (.ldxDirY dOff) := fun _ => rfl
theorem EncodeLength.ldaDirIndLongY (dOff : Byte) : EncodeLength.Statement (.ldaDirIndLongY dOff) := fun _ => rfl
theorem EncodeLength.clv : EncodeLength.Statement .clv := fun _ => rfl
theorem EncodeLength.ldaAbsY (aa : Word) : EncodeLength.Statement (.ldaAbsY aa) := fun _ => rfl
theorem EncodeLength.tsx : EncodeLength.Statement .tsx := fun _ => rfl
theorem EncodeLength.tyx : EncodeLength.Statement .tyx := fun _ => rfl
theorem EncodeLength.ldyAbsX (aa : Word) : EncodeLength.Statement (.ldyAbsX aa) := fun _ => rfl
theorem EncodeLength.ldaAbsX (aa : Word) : EncodeLength.Statement (.ldaAbsX aa) := fun _ => rfl
theorem EncodeLength.ldxAbsY (aa : Word) : EncodeLength.Statement (.ldxAbsY aa) := fun _ => rfl
theorem EncodeLength.ldaLongX (aal : Addr) : EncodeLength.Statement (.ldaLongX aal) := fun _ => rfl
theorem EncodeLength.cpyImm (imm : Word) : EncodeLength.Statement (.cpyImm imm) := fun f => immBytes_length f.x imm _
theorem EncodeLength.cmpDirIndX (dOff : Byte) : EncodeLength.Statement (.cmpDirIndX dOff) := fun _ => rfl
theorem EncodeLength.rep (mask : Byte) : EncodeLength.Statement (.rep mask) := fun _ => rfl
theorem EncodeLength.cmpSr (so : Byte) : EncodeLength.Statement (.cmpSr so) := fun _ => rfl
theorem EncodeLength.cpyDir (dOff : Byte) : EncodeLength.Statement (.cpyDir dOff) := fun _ => rfl
theorem EncodeLength.cmpDir (dOff : Byte) : EncodeLength.Statement (.cmpDir dOff) := fun _ => rfl
theorem EncodeLength.decDir (dOff : Byte) : EncodeLength.Statement (.decDir dOff) := fun _ => rfl
theorem EncodeLength.cmpDirIndLong (dOff : Byte) : EncodeLength.Statement (.cmpDirIndLong dOff) := fun _ => rfl
theorem EncodeLength.iny : EncodeLength.Statement .iny := fun _ => rfl
theorem EncodeLength.cmpImm (imm : Word) : EncodeLength.Statement (.cmpImm imm) := fun f => immBytes_length f.m imm _
theorem EncodeLength.dex : EncodeLength.Statement .dex := fun _ => rfl
theorem EncodeLength.wai : EncodeLength.Statement .wai := fun _ => rfl
theorem EncodeLength.cpyAbs (aa : Word) : EncodeLength.Statement (.cpyAbs aa) := fun _ => rfl
theorem EncodeLength.cmpAbs (aa : Word) : EncodeLength.Statement (.cmpAbs aa) := fun _ => rfl
theorem EncodeLength.decAbs (aa : Word) : EncodeLength.Statement (.decAbs aa) := fun _ => rfl
theorem EncodeLength.cmpLong (aal : Addr) : EncodeLength.Statement (.cmpLong aal) := fun _ => rfl
theorem EncodeLength.bne (off : Byte) : EncodeLength.Statement (.bne off) := fun _ => rfl
theorem EncodeLength.cmpDirIndY (dOff : Byte) : EncodeLength.Statement (.cmpDirIndY dOff) := fun _ => rfl
theorem EncodeLength.cmpDirInd (dOff : Byte) : EncodeLength.Statement (.cmpDirInd dOff) := fun _ => rfl
theorem EncodeLength.cmpSrIndY (so : Byte) : EncodeLength.Statement (.cmpSrIndY so) := fun _ => rfl
theorem EncodeLength.pei (dOff : Byte) : EncodeLength.Statement (.pei dOff) := fun _ => rfl
theorem EncodeLength.cmpDirX (dOff : Byte) : EncodeLength.Statement (.cmpDirX dOff) := fun _ => rfl
theorem EncodeLength.decDirX (dOff : Byte) : EncodeLength.Statement (.decDirX dOff) := fun _ => rfl
theorem EncodeLength.cmpDirIndLongY (dOff : Byte) : EncodeLength.Statement (.cmpDirIndLongY dOff) := fun _ => rfl
theorem EncodeLength.cld : EncodeLength.Statement .cld := fun _ => rfl
theorem EncodeLength.cmpAbsY (aa : Word) : EncodeLength.Statement (.cmpAbsY aa) := fun _ => rfl
theorem EncodeLength.phx : EncodeLength.Statement .phx := fun _ => rfl
theorem EncodeLength.stp : EncodeLength.Statement .stp := fun _ => rfl
theorem EncodeLength.jml (aa : Word) : EncodeLength.Statement (.jml aa) := fun _ => rfl
theorem EncodeLength.cmpAbsX (aa : Word) : EncodeLength.Statement (.cmpAbsX aa) := fun _ => rfl
theorem EncodeLength.decAbsX (aa : Word) : EncodeLength.Statement (.decAbsX aa) := fun _ => rfl
theorem EncodeLength.cmpLongX (aal : Addr) : EncodeLength.Statement (.cmpLongX aal) := fun _ => rfl
theorem EncodeLength.cpxImm (imm : Word) : EncodeLength.Statement (.cpxImm imm) := fun f => immBytes_length f.x imm _
theorem EncodeLength.sbcDirIndX (dOff : Byte) : EncodeLength.Statement (.sbcDirIndX dOff) := fun _ => rfl
theorem EncodeLength.sep (mask : Byte) : EncodeLength.Statement (.sep mask) := fun _ => rfl
theorem EncodeLength.sbcSr (so : Byte) : EncodeLength.Statement (.sbcSr so) := fun _ => rfl
theorem EncodeLength.cpxDir (dOff : Byte) : EncodeLength.Statement (.cpxDir dOff) := fun _ => rfl
theorem EncodeLength.sbcDir (dOff : Byte) : EncodeLength.Statement (.sbcDir dOff) := fun _ => rfl
theorem EncodeLength.incDir (dOff : Byte) : EncodeLength.Statement (.incDir dOff) := fun _ => rfl
theorem EncodeLength.sbcDirIndLong (dOff : Byte) : EncodeLength.Statement (.sbcDirIndLong dOff) := fun _ => rfl
theorem EncodeLength.inx : EncodeLength.Statement .inx := fun _ => rfl
theorem EncodeLength.sbcImm (imm : Word) : EncodeLength.Statement (.sbcImm imm) := fun f => immBytes_length f.m imm _
theorem EncodeLength.nop : EncodeLength.Statement .nop := fun _ => rfl
theorem EncodeLength.xba : EncodeLength.Statement .xba := fun _ => rfl
theorem EncodeLength.cpxAbs (aa : Word) : EncodeLength.Statement (.cpxAbs aa) := fun _ => rfl
theorem EncodeLength.sbcAbs (aa : Word) : EncodeLength.Statement (.sbcAbs aa) := fun _ => rfl
theorem EncodeLength.incAbs (aa : Word) : EncodeLength.Statement (.incAbs aa) := fun _ => rfl
theorem EncodeLength.sbcLong (aal : Addr) : EncodeLength.Statement (.sbcLong aal) := fun _ => rfl
theorem EncodeLength.beq (off : Byte) : EncodeLength.Statement (.beq off) := fun _ => rfl
theorem EncodeLength.sbcDirIndY (dOff : Byte) : EncodeLength.Statement (.sbcDirIndY dOff) := fun _ => rfl
theorem EncodeLength.sbcDirInd (dOff : Byte) : EncodeLength.Statement (.sbcDirInd dOff) := fun _ => rfl
theorem EncodeLength.sbcSrIndY (so : Byte) : EncodeLength.Statement (.sbcSrIndY so) := fun _ => rfl
theorem EncodeLength.pea (aa : Word) : EncodeLength.Statement (.pea aa) := fun _ => rfl
theorem EncodeLength.sbcDirX (dOff : Byte) : EncodeLength.Statement (.sbcDirX dOff) := fun _ => rfl
theorem EncodeLength.incDirX (dOff : Byte) : EncodeLength.Statement (.incDirX dOff) := fun _ => rfl
theorem EncodeLength.sbcDirIndLongY (dOff : Byte) : EncodeLength.Statement (.sbcDirIndLongY dOff) := fun _ => rfl
theorem EncodeLength.sed : EncodeLength.Statement .sed := fun _ => rfl
theorem EncodeLength.sbcAbsY (aa : Word) : EncodeLength.Statement (.sbcAbsY aa) := fun _ => rfl
theorem EncodeLength.plx : EncodeLength.Statement .plx := fun _ => rfl
theorem EncodeLength.xce : EncodeLength.Statement .xce := fun _ => rfl
theorem EncodeLength.jsrAbsIndX (aa : Word) : EncodeLength.Statement (.jsrAbsIndX aa) := fun _ => rfl
theorem EncodeLength.sbcAbsX (aa : Word) : EncodeLength.Statement (.sbcAbsX aa) := fun _ => rfl
theorem EncodeLength.incAbsX (aa : Word) : EncodeLength.Statement (.incAbsX aa) := fun _ => rfl
theorem EncodeLength.sbcLongX (aal : Addr) : EncodeLength.Statement (.sbcLongX aal) := fun _ => rfl

theorem Reassemble.brk (sig : Byte) : Reassemble.Statement (.brk sig) := fun _ _ _ => ⟨_, _, rfl, rfl⟩
theorem Reassemble.oraDirIndX (dOff : Byte) : Reassemble.Statement (.oraDirIndX dOff) := fun _ _ _ => ⟨_, _, rfl, rfl⟩
theorem Reassemble.cop (sig : Byte) : Reassemble.Statement (.cop sig) := fun _ _ _ => ⟨_, _, rfl, rfl⟩
theorem Reassemble.oraSr (so : Byte) : Reassemble.Statement (.oraSr so) := fun _ _ _ => ⟨_, _, rfl, rfl⟩
theorem Reassemble.tsbDir (dOff : Byte) : Reassemble.Statement (.tsbDir dOff) := fun _ _ _ => ⟨_, _, rfl, rfl⟩
theorem Reassemble.oraDir (dOff : Byte) : Reassemble.Statement (.oraDir dOff) := fun _ _ _ => ⟨_, _, rfl, rfl⟩
theorem Reassemble.aslDir (dOff : Byte) : Reassemble.Statement (.aslDir dOff) := fun _ _ _ => ⟨_, _, rfl, rfl⟩
theorem Reassemble.oraDirIndLong (dOff : Byte) : Reassemble.Statement (.oraDirIndLong dOff) := fun _ _ _ => ⟨_, _, rfl, rfl⟩
theorem Reassemble.php : Reassemble.Statement .php := fun _ _ _ => ⟨_, _, rfl, rfl⟩
theorem Reassemble.oraImm (imm : Word) : Reassemble.Statement (.oraImm imm) := fun f rest h =>
  ⟨_, _, rfl, congrArg Instr.oraImm (imm_parts f f.m imm rest h)⟩
theorem Reassemble.aslAcc : Reassemble.Statement .aslAcc := fun _ _ _ => ⟨_, _, rfl, rfl⟩
theorem Reassemble.phd : Reassemble.Statement .phd := fun _ _ _ => ⟨_, _, rfl, rfl⟩
theorem Reassemble.tsbAbs (aa : Word) : Reassemble.Statement (.tsbAbs aa) := fun _ _ _ =>
  ⟨_, _, rfl, congrArg Instr.tsbAbs (word_hi_lo aa)⟩
theorem Reassemble.oraAbs (aa : Word) : Reassemble.Statement (.oraAbs aa) := fun _ _ _ =>
  ⟨_, _, rfl, congrArg Instr.oraAbs (word_hi_lo aa)⟩
theorem Reassemble.aslAbs (aa : Word) : Reassemble.Statement (.aslAbs aa) := fun _ _ _ =>
  ⟨_, _, rfl, congrArg Instr.aslAbs (word_hi_lo aa)⟩
theorem Reassemble.oraLong (aal : Addr) : Reassemble.Statement (.oraLong aal) := fun _ _ _ =>
  ⟨_, _, rfl, congrArg Instr.oraLong (addr_parts aal)⟩
theorem Reassemble.bpl (off : Byte) : Reassemble.Statement (.bpl off) := fun _ _ _ => ⟨_, _, rfl, rfl⟩
theorem Reassemble.oraDirIndY (dOff : Byte) : Reassemble.Statement (.oraDirIndY dOff) := fun _ _ _ => ⟨_, _, rfl, rfl⟩
theorem Reassemble.oraDirInd (dOff : Byte) : Reassemble.Statement (.oraDirInd dOff) := fun _ _ _ => ⟨_, _, rfl, rfl⟩
theorem Reassemble.oraSrIndY (so : Byte) : Reassemble.Statement (.oraSrIndY so) := fun _ _ _ => ⟨_, _, rfl, rfl⟩
theorem Reassemble.trbDir (dOff : Byte) : Reassemble.Statement (.trbDir dOff) := fun _ _ _ => ⟨_, _, rfl, rfl⟩
theorem Reassemble.oraDirX (dOff : Byte) : Reassemble.Statement (.oraDirX dOff) := fun _ _ _ => ⟨_, _, rfl, rfl⟩
theorem Reassemble.aslDirX (dOff : Byte) : Reassemble.Statement (.aslDirX dOff) := fun _ _ _ => ⟨_, _, rfl, rfl⟩
theorem Reassemble.oraDirIndLongY (dOff : Byte) : Reassemble.Statement (.oraDirIndLongY dOff) := fun _ _ _ => ⟨_, _, rfl, rfl⟩
theorem Reassemble.clc : Reassemble.Statement .clc := fun _ _ _ => ⟨_, _, rfl, rfl⟩
theorem Reassemble.oraAbsY (aa : Word) : Reassemble.Statement (.oraAbsY aa) := fun _ _ _ =>
  ⟨_, _, rfl, congrArg Instr.oraAbsY (word_hi_lo aa)⟩
theorem Reassemble.incAcc : Reassemble.Statement .incAcc := fun _ _ _ => ⟨_, _, rfl, rfl⟩
theorem Reassemble.tcs : Reassemble.Statement .tcs := fun _ _ _ => ⟨_, _, rfl, rfl⟩
theorem Reassemble.trbAbs (aa : Word) : Reassemble.Statement (.trbAbs aa) := fun _ _ _ =>
  ⟨_, _, rfl, congrArg Instr.trbAbs (word_hi_lo aa)⟩
theorem Reassemble.oraAbsX (aa : Word) : Reassemble.Statement (.oraAbsX aa) := fun _ _ _ =>
  ⟨_, _, rfl, congrArg Instr.oraAbsX (word_hi_lo aa)⟩
theorem Reassemble.aslAbsX (aa : Word) : Reassemble.Statement (.aslAbsX aa) := fun _ _ _ =>
  ⟨_, _, rfl, congrArg Instr.aslAbsX (word_hi_lo aa)⟩
theorem Reassemble.oraLongX (aal : Addr) : Reassemble.Statement (.oraLongX aal) := fun _ _ _ =>
  ⟨_, _, rfl, congrArg Instr.oraLongX (addr_parts aal)⟩
theorem Reassemble.jsrAbs (aa : Word) : Reassemble.Statement (.jsrAbs aa) := fun _ _ _ =>
  ⟨_, _, rfl, congrArg Instr.jsrAbs (word_hi_lo aa)⟩
theorem Reassemble.andDirIndX (dOff : Byte) : Reassemble.Statement (.andDirIndX dOff) := fun _ _ _ => ⟨_, _, rfl, rfl⟩
theorem Reassemble.jsl (aal : Addr) : Reassemble.Statement (.jsl aal) := fun _ _ _ =>
  ⟨_, _, rfl, congrArg Instr.jsl (addr_parts aal)⟩
theorem Reassemble.andSr (so : Byte) : Reassemble.Statement (.andSr so) := fun _ _ _ => ⟨_, _, rfl, rfl⟩
theorem Reassemble.bitDir (dOff : Byte) : Reassemble.Statement (.bitDir dOff) := fun _ _ _ => ⟨_, _, rfl, rfl⟩
theorem Reassemble.andDir (dOff : Byte) : Reassemble.Statement (.andDir dOff) := fun _ _ _ => ⟨_, _, rfl, rfl⟩
theorem Reassemble.rolDir (dOff : Byte) : Reassemble.Statement (.rolDir dOff) := fun _ _ _ => ⟨_, _, rfl, rfl⟩
theorem Reassemble.andDirIndLong (dOff : Byte) : Reassemble.Statement (.andDirIndLong dOff) := fun _ _ _ => ⟨_, _, rfl, rfl⟩
theorem Reassemble.plp : Reassemble.Statement .plp := fun _ _ _ => ⟨_, _, rfl, rfl⟩
theorem Reassemble.andImm (imm : Word) : Reassemble.Statement (.andImm imm) := fun f rest h =>
  ⟨_, _, rfl, congrArg Instr.andImm (imm_parts f f.m imm rest h)⟩
theorem Reassemble.rolAcc : Reassemble.Statement .rolAcc := fun _ _ _ => ⟨_, _, rfl, rfl⟩
theorem Reassemble.pld : Reassemble.Statement .pld := fun _ _ _ => ⟨_, _, rfl, rfl⟩
theorem Reassemble.bitAbs (aa : Word) : Reassemble.Statement (.bitAbs aa) := fun _ _ _ =>
  ⟨_, _, rfl, congrArg Instr.bitAbs (word_hi_lo aa)⟩
theorem Reassemble.andAbs (aa : Word) : Reassemble.Statement (.andAbs aa) := fun _ _ _ =>
  ⟨_, _, rfl, congrArg Instr.andAbs (word_hi_lo aa)⟩
theorem Reassemble.rolAbs (aa : Word) : Reassemble.Statement (.rolAbs aa) := fun _ _ _ =>
  ⟨_, _, rfl, congrArg Instr.rolAbs (word_hi_lo aa)⟩
theorem Reassemble.andLong (aal : Addr) : Reassemble.Statement (.andLong aal) := fun _ _ _ =>
  ⟨_, _, rfl, congrArg Instr.andLong (addr_parts aal)⟩
theorem Reassemble.bmi (off : Byte) : Reassemble.Statement (.bmi off) := fun _ _ _ => ⟨_, _, rfl, rfl⟩
theorem Reassemble.andDirIndY (dOff : Byte) : Reassemble.Statement (.andDirIndY dOff) := fun _ _ _ => ⟨_, _, rfl, rfl⟩
theorem Reassemble.andDirInd (dOff : Byte) : Reassemble.Statement (.andDirInd dOff) := fun _ _ _ => ⟨_, _, rfl, rfl⟩
theorem Reassemble.andSrIndY (so : Byte) : Reassemble.Statement (.andSrIndY so) := fun _ _ _ => ⟨_, _, rfl, rfl⟩
theorem Reassemble.bitDirX (dOff : Byte) : Reassemble.Statement (.bitDirX dOff) := fun _ _ _ => ⟨_, _, rfl, rfl⟩
theorem Reassemble.andDirX (dOff : Byte) : Reassemble.Statement (.andDirX dOff) := fun _ _ _ => ⟨_, _, rfl, rfl⟩
theorem Reassemble.rolDirX (dOff : Byte) : Reassemble.Statement (.rolDirX dOff) := fun _ _ _ => ⟨_, _, rfl, rfl⟩
theorem Reassemble.andDirIndLongY (dOff : Byte) : Reassemble.Statement (.andDirIndLongY dOff) := fun _ _ _ => ⟨_, _, rfl, rfl⟩
theorem Reassemble.sec : Reassemble.Statement .sec := fun _ _ _ => ⟨_, _, rfl, rfl⟩
theorem Reassemble.andAbsY (aa : Word) : Reassemble.Statement (.andAbsY aa) := fun _ _ _ =>
  ⟨_, _, rfl, congrArg Instr.andAbsY (word_hi_lo aa)⟩
theorem Reassemble.decAcc : Reassemble.Statement .decAcc := fun _ _ _ => ⟨_, _, rfl, rfl⟩
theorem Reassemble.tsc : Reassemble.Statement .tsc := fun _ _ _ => ⟨_, _, rfl, rfl⟩
theorem Reassemble.bitAbsX (aa : Word) : Reassemble.Statement (.bitAbsX aa) := fun _ _ _ =>
  ⟨_, _, rfl, congrArg Instr.bitAbsX (word_hi_lo aa)⟩
theorem Reassemble.andAbsX (aa : Word) : Reassemble.Statement (.andAbsX aa) := fun _ _ _ =>
  ⟨_, _, rfl, congrArg Instr.andAbsX (word_hi_lo aa)⟩
theorem Reassemble.rolAbsX (aa : Word) : Reassemble.Statement (.rolAbsX aa) := fun _ _ _ =>
  ⟨_, _, rfl, congrArg Instr.rolAbsX (word_hi_lo aa)⟩
theorem Reassemble.andLongX (aal : Addr) : Reassemble.Statement (.andLongX aal) := fun _ _ _ =>
  ⟨_, _, rfl, congrArg Instr.andLongX (addr_parts aal)⟩
theorem Reassemble.rti : Reassemble.Statement .rti := fun _ _ _ => ⟨_, _, rfl, rfl⟩
theorem Reassemble.eorDirIndX (dOff : Byte) : Reassemble.Statement (.eorDirIndX dOff) := fun _ _ _ => ⟨_, _, rfl, rfl⟩
theorem Reassemble.wdm (ignored : Byte) : Reassemble.Statement (.wdm ignored) := fun _ _ _ => ⟨_, _, rfl, rfl⟩
theorem Reassemble.eorSr (so : Byte) : Reassemble.Statement (.eorSr so) := fun _ _ _ => ⟨_, _, rfl, rfl⟩
theorem Reassemble.mvp (dba : Byte) (sba : Byte) : Reassemble.Statement (.mvp dba sba) := fun _ _ _ => ⟨_, _, rfl, rfl⟩
theorem Reassemble.eorDir (dOff : Byte) : Reassemble.Statement (.eorDir dOff) := fun _ _ _ => ⟨_, _, rfl, rfl⟩
theorem Reassemble.lsrDir (dOff : Byte) : Reassemble.Statement (.lsrDir dOff) := fun _ _ _ => ⟨_, _, rfl, rfl⟩
theorem Reassemble.eorDirIndLong (dOff : Byte) : Reassemble.Statement (.eorDirIndLong dOff) := fun _ _ _ => ⟨_, _, rfl, rfl⟩
theorem Reassemble.pha : Reassemble.Statement .pha := fun _ _ _ => ⟨_, _, rfl, rfl⟩
theorem Reassemble.eorImm (imm : Word) : Reassemble.Statement (.eorImm imm) := fun f rest h =>
  ⟨_, _, rfl, congrArg Instr.eorImm (imm_parts f f.m imm rest h)⟩
theorem Reassemble.lsrAcc : Reassemble.Statement .lsrAcc := fun _ _ _ => ⟨_, _, rfl, rfl⟩
theorem Reassemble.phk : Reassemble.Statement .phk := fun _ _ _ => ⟨_, _, rfl, rfl⟩
theorem Reassemble.jmpAbs (aa : Word) : Reassemble.Statement (.jmpAbs aa) := fun _ _ _ =>
  ⟨_, _, rfl, congrArg Instr.jmpAbs (word_hi_lo aa)⟩
theorem Reassemble.eorAbs (aa : Word) : Reassemble.Statement (.eorAbs aa) := fun _ _ _ =>
  ⟨_, _, rfl, congrArg Instr.eorAbs (word_hi_lo aa)⟩
theorem Reassemble.lsrAbs (aa : Word) : Reassemble.Statement (.lsrAbs aa) := fun _ _ _ =>
  ⟨_, _, rfl, congrArg Instr.lsrAbs (word_hi_lo aa)⟩
theorem Reassemble.eorLong (aal : Addr) : Reassemble.Statement (.eorLong aal) := fun _ _ _ =>
  ⟨_, _, rfl, congrArg Instr.eorLong (addr_parts aal)⟩
theorem Reassemble.bvc (off : Byte) : Reassemble.Statement (.bvc off) := fun _ _ _ => ⟨_, _, rfl, rfl⟩
theorem Reassemble.eorDirIndY (dOff : Byte) : Reassemble.Statement (.eorDirIndY dOff) := fun _ _ _ => ⟨_, _, rfl, rfl⟩
theorem Reassemble.eorDirInd (dOff : Byte) : Reassemble.Statement (.eorDirInd dOff) := fun _ _ _ => ⟨_, _, rfl, rfl⟩
theorem Reassemble.eorSrIndY (so : Byte) : Reassemble.Statement (.eorSrIndY so) := fun _ _ _ => ⟨_, _, rfl, rfl⟩
theorem Reassemble.mvn (dba : Byte) (sba : Byte) : Reassemble.Statement (.mvn dba sba) := fun _ _ _ => ⟨_, _, rfl, rfl⟩
theorem Reassemble.eorDirX (dOff : Byte) : Reassemble.Statement (.eorDirX dOff) := fun _ _ _ => ⟨_, _, rfl, rfl⟩
theorem Reassemble.lsrDirX (dOff : Byte) : Reassemble.Statement (.lsrDirX dOff) := fun _ _ _ => ⟨_, _, rfl, rfl⟩
theorem Reassemble.eorDirIndLongY (dOff : Byte) : Reassemble.Statement (.eorDirIndLongY dOff) := fun _ _ _ => ⟨_, _, rfl, rfl⟩
theorem Reassemble.cli : Reassemble.Statement .cli := fun _ _ _ => ⟨_, _, rfl, rfl⟩
theorem Reassemble.eorAbsY (aa : Word) : Reassemble.Statement (.eorAbsY aa) := fun _ _ _ =>
  ⟨_, _, rfl, congrArg Instr.eorAbsY (word_hi_lo aa)⟩
theorem Reassemble.phy : Reassemble.Statement .phy := fun _ _ _ => ⟨_, _, rfl, rfl⟩
theorem Reassemble.tcd : Reassemble.Statement .tcd := fun _ _ _ => ⟨_, _, rfl, rfl⟩
theorem Reassemble.jmpLong (aal : Addr) : Reassemble.Statement (.jmpLong aal) := fun _ _ _ =>
  ⟨_, _, rfl, congrArg Instr.jmpLong (addr_parts aal)⟩
theorem Reassemble.eorAbsX (aa : Word) : Reassemble.Statement (.eorAbsX aa) := fun _ _ _ =>
  ⟨_, _, rfl, congrArg Instr.eorAbsX (word_hi_lo aa)⟩
theorem Reassemble.lsrAbsX (aa : Word) : Reassemble.Statement (.lsrAbsX aa) := fun _ _ _ =>
  ⟨_, _, rfl, congrArg Instr.lsrAbsX (word_hi_lo aa)⟩
theorem Reassemble.eorLongX (aal : Addr) : Reassemble.Statement (.eorLongX aal) := fun _ _ _ =>
  ⟨_, _, rfl, congrArg Instr.eorLongX (addr_parts aal)⟩
theorem Reassemble.rts : Reassemble.Statement .rts := fun _ _ _ => ⟨_, _, rfl, rfl⟩
theorem Reassemble.adcDirIndX (dOff : Byte) : Reassemble.Statement (.adcDirIndX dOff) := fun _ _ _ => ⟨_, _, rfl, rfl⟩
theorem Reassemble.per (off : Word) : Reassemble.Statement (.per off) := fun _ _ _ =>
  ⟨_, _, rfl, congrArg Instr.per (word_hi_lo off)⟩
theorem Reassemble.adcSr (so : Byte) : Reassemble.Statement (.adcSr so) := fun _ _ _ => ⟨_, _, rfl, rfl⟩
theorem Reassemble.stzDir (dOff : Byte) : Reassemble.Statement (.stzDir dOff) := fun _ _ _ => ⟨_, _, rfl, rfl⟩
theorem Reassemble.adcDir (dOff : Byte) : Reassemble.Statement (.adcDir dOff) := fun _ _ _ => ⟨_, _, rfl, rfl⟩
theorem Reassemble.rorDir (dOff : Byte) : Reassemble.Statement (.rorDir dOff) := fun _ _ _ => ⟨_, _, rfl, rfl⟩
theorem Reassemble.adcDirIndLong (dOff : Byte) : Reassemble.Statement (.adcDirIndLong dOff) := fun _ _ _ => ⟨_, _, rfl, rfl⟩
theorem Reassemble.pla : Reassemble.Statement .pla := fun _ _ _ => ⟨_, _, rfl, rfl⟩
theorem Reassemble.adcImm (imm : Word) : Reassemble.Statement (.adcImm imm) := fun f rest h =>
  ⟨_, _, rfl, congrArg Instr.adcImm (imm_parts f f.m imm rest h)⟩
theorem Reassemble.rorAcc : Reassemble.Statement .rorAcc := fun _ _ _ => ⟨_, _, rfl, rfl⟩
theorem Reassemble.rtl : Reassemble.Statement .rtl := fun _ _ _ => ⟨_, _, rfl, rfl⟩
theorem Reassemble.jmpAbsInd (aa : Word) : Reassemble.Statement (.jmpAbsInd aa) := fun _ _ _ =>
  ⟨_, _, rfl, congrArg Instr.jmpAbsInd (word_hi_lo aa)⟩
theorem Reassemble.adcAbs (aa : Word) : Reassemble.Statement (.adcAbs aa) := fun _ _ _ =>
  ⟨_, _, rfl, congrArg Instr.adcAbs (word_hi_lo aa)⟩
theorem Reassemble.rorAbs (aa : Word) : Reassemble.Statement (.rorAbs aa) := fun _ _ _ =>
  ⟨_, _, rfl, congrArg Instr.rorAbs (word_hi_lo aa)⟩
theorem Reassemble.adcLong (aal : Addr) : Reassemble.Statement (.adcLong aal) := fun _ _ _ =>
  ⟨_, _, rfl, congrArg Instr.adcLong (addr_parts aal)⟩
theorem Reassemble.bvs (off : Byte) : Reassemble.Statement (.bvs off) := fun _ _ _ => ⟨_, _, rfl, rfl⟩
theorem Reassemble.adcDirIndY (dOff : Byte) : Reassemble.Statement (.adcDirIndY dOff) := fun _ _ _ => ⟨_, _, rfl, rfl⟩
theorem Reassemble.adcDirInd (dOff : Byte) : Reassemble.Statement (.adcDirInd dOff) := fun _ _ _ => ⟨_, _, rfl, rfl⟩
theorem Reassemble.adcSrIndY (so : Byte) : Reassemble.Statement (.adcSrIndY so) := fun _ _ _ => ⟨_, _, rfl, rfl⟩
theorem Reassemble.stzDirX (dOff : Byte) : Reassemble.Statement (.stzDirX dOff) := fun _ _ _ => ⟨_, _, rfl, rfl⟩
theorem Reassemble.adcDirX (dOff : Byte) : Reassemble.Statement (.adcDirX dOff) := fun _ _ _ => ⟨_, _, rfl, rfl⟩
theorem Reassemble.rorDirX (dOff : Byte) : Reassemble.Statement (.rorDirX dOff) := fun _ _ _ => ⟨_, _, rfl, rfl⟩
theorem Reassemble.adcDirIndLongY (dOff : Byte) : Reassemble.Statement (.adcDirIndLongY dOff) := fun _ _ _ => ⟨_, _, rfl, rfl⟩
theorem Reassemble.sei : Reassemble.Statement .sei := fun _ _ _ => ⟨_, _, rfl, rfl⟩
theorem Reassemble.adcAbsY (aa : Word) : Reassemble.Statement (.adcAbsY aa) := fun _ _ _ =>
  ⟨_, _, rfl, congrArg Instr.adcAbsY (word_hi_lo aa)⟩
theorem Reassemble.ply : Reassemble.Statement .ply := fun _ _ _ => ⟨_, _, rfl, rfl⟩
theorem Reassemble.tdc : Reassemble.Statement .tdc := fun _ _ _ => ⟨_, _, rfl, rfl⟩
theorem Reassemble.jmpAbsIndX (aa : Word) : Reassemble.Statement (.jmpAbsIndX aa) := fun _ _ _ =>
  ⟨_, _, rfl, congrArg Instr.jmpAbsIndX (word_hi_lo aa)⟩
theorem Reassemble.adcAbsX (aa : Word) : Reassemble.Statement (.adcAbsX aa) := fun _ _ _ =>
  ⟨_, _, rfl, congrArg Instr.adcAbsX (word_hi_lo aa)⟩
theorem Reassemble.rorAbsX (aa : Word) : Reassemble.Statement (.rorAbsX aa) := fun _ _ _ =>
  ⟨_, _, rfl, congrArg Instr.rorAbsX (word_hi_lo aa)⟩
theorem Reassemble.adcLongX (aal : Addr) : Reassemble.Statement (.adcLongX aal) := fun _ _ _ =>
  ⟨_, _, rfl, congrArg Instr.adcLongX (addr_parts aal)⟩
theorem Reassemble.bra (off : Byte) : Reassemble.Statement (.bra off) := fun _ _ _ => ⟨_, _, rfl, rfl⟩
theorem Reassemble.staDirIndX (dOff : Byte) : Reassemble.Statement (.staDirIndX dOff) := fun _ _ _ => ⟨_, _, rfl, rfl⟩
theorem Reassemble.brl (off : Word) : Reassemble.Statement (.brl off) := fun _ _ _ =>
  ⟨_, _, rfl, congrArg Instr.brl (word_hi_lo off)⟩
theorem Reassemble.staSr (so : Byte) : Reassemble.Statement (.staSr so) := fun _ _ _ => ⟨_, _, rfl, rfl⟩
theorem Reassemble.styDir (dOff : Byte) : Reassemble.Statement (.styDir dOff) := fun _ _ _ => ⟨_, _, rfl, rfl⟩
theorem Reassemble.staDir (dOff : Byte) : Reassemble.Statement (.staDir dOff) := fun _ _ _ => ⟨_, _, rfl, rfl⟩
theorem Reassemble.stxDir (dOff : Byte) : Reassemble.Statement (.stxDir dOff) := fun _ _ _ => ⟨_, _, rfl, rfl⟩
theorem Reassemble.staDirIndLong (dOff : Byte) : Reassemble.Statement (.staDirIndLong dOff) := fun _ _ _ => ⟨_, _, rfl, rfl⟩
theorem Reassemble.dey : Reassemble.Statement .dey := fun _ _ _ => ⟨_, _, rfl, rfl⟩
theorem Reassemble.bitImm (imm : Word) : Reassemble.Statement (.bitImm imm) := fun f rest h =>
  ⟨_, _, rfl, congrArg Instr.bitImm (imm_parts f f.m imm rest h)⟩
theorem Reassemble.txa : Reassemble.Statement .txa := fun _ _ _ => ⟨_, _, rfl, rfl⟩
theorem Reassemble.phb : Reassemble.Statement .phb := fun _ _ _ => ⟨_, _, rfl, rfl⟩
theorem Reassemble.styAbs (aa : Word) : Reassemble.Statement (.styAbs aa) := fun _ _ _ =>
  ⟨_, _, rfl, congrArg Instr.styAbs (word_hi_lo aa)⟩
theorem Reassemble.staAbs (aa : Word) : Reassemble.Statement (.staAbs aa) := fun _ _ _ =>
  ⟨_, _, rfl, congrArg Instr.staAbs (word_hi_lo aa)⟩
theorem Reassemble.stxAbs (aa : Word) : Reassemble.Statement (.stxAbs aa) := fun _ _ _ =>
  ⟨_, _, rfl, congrArg Instr.stxAbs (word_hi_lo aa)⟩
theorem Reassemble.staLong (aal : Addr) : Reassemble.Statement (.staLong aal) := fun _ _ _ =>
  ⟨_, _, rfl, congrArg Instr.staLong (addr_parts aal)⟩
theorem Reassemble.bcc (off : Byte) : Reassemble.Statement (.bcc off) := fun _ _ _ => ⟨_, _, rfl, rfl⟩
theorem Reassemble.staDirIndY (dOff : Byte) : Reassemble.Statement (.staDirIndY dOff) := fun _ _ _ => ⟨_, _, rfl, rfl⟩
theorem Reassemble.staDirInd (dOff : Byte) : Reassemble.Statement (.staDirInd dOff) := fun _ _ _ => ⟨_, _, rfl, rfl⟩
theorem Reassemble.staSrIndY (so : Byte) : Reassemble.Statement (.staSrIndY so) := fun _ _ _ => ⟨_, _, rfl, rfl⟩
theorem Reassemble.styDirX (dOff : Byte) : Reassemble.Statement (.styDirX dOff) := fun _ _ _ => ⟨_, _, rfl, rfl⟩
theorem Reassemble.staDirX (dOff : Byte) : Reassemble.Statement (.staDirX dOff) := fun _ _ _ => ⟨_, _, rfl, rfl⟩
theorem Reassemble.stxDirY (dOff : Byte) : Reassemble.Statement (.stxDirY dOff) := fun _ _ _ => ⟨_, _, rfl, rfl⟩
theorem Reassemble.staDirIndLongY (dOff : Byte) : Reassemble.Statement (.staDirIndLongY dOff) := fun _ _ _ => ⟨_, _, rfl, rfl⟩
theorem Reassemble.tya : Reassemble.Statement .tya := fun _ _ _ => ⟨_, _, rfl, rfl⟩
theorem Reassemble.staAbsY (aa : Word) : Reassemble.Statement (.staAbsY aa) := fun _ _ _ =>
  ⟨_, _, rfl, congrArg Instr.staAbsY (word_hi_lo aa)⟩
theorem Reassemble.txs : Reassemble.Statement .txs := fun _ _ _ => ⟨_, _, rfl, rfl⟩
theorem Reassemble.txy : Reassemble.Statement .txy := fun _ _ _ => ⟨_, _, rfl, rfl⟩
theorem Reassemble.stzAbs (aa : Word) : Reassemble.Statement (.stzAbs aa) := fun _ _ _ =>
  ⟨_, _, rfl, congrArg Instr.stzAbs (word_hi_lo aa)⟩
theorem Reassemble.staAbsX (aa : Word) : Reassemble.Statement (.staAbsX aa) := fun _ _ _ =>
  ⟨_, _, rfl, congrArg Instr.staAbsX (word_hi_lo aa)⟩
theorem Reassemble.stzAbsX (aa : Word) : Reassemble.Statement (.stzAbsX aa) := fun _ _ _ =>
  ⟨_, _, rfl, congrArg Instr.stzAbsX (word_hi_lo aa)⟩
theorem Reassemble.staLongX (aal : Addr) : Reassemble.Statement (.staLongX aal) := fun _ _ _ =>
  ⟨_, _, rfl, congrArg Instr.staLongX (addr_parts aal)⟩
theorem Reassemble.ldyImm (imm : Word) : Reassemble.Statement (.ldyImm imm) := fun f rest h =>
  ⟨_, _, rfl, congrArg Instr.ldyImm (imm_parts f f.x imm rest h)⟩
theorem Reassemble.ldaDirIndX (dOff : Byte) : Reassemble.Statement (.ldaDirIndX dOff) := fun _ _ _ => ⟨_, _, rfl, rfl⟩
theorem Reassemble.ldxImm (imm : Word) : Reassemble.Statement (.ldxImm imm) := fun f rest h =>
  ⟨_, _, rfl, congrArg Instr.ldxImm (imm_parts f f.x imm rest h)⟩
theorem Reassemble.ldaSr (so : Byte) : Reassemble.Statement (.ldaSr so) := fun _ _ _ => ⟨_, _, rfl, rfl⟩
theorem Reassemble.ldyDir (dOff : Byte) : Reassemble.Statement (.ldyDir dOff) := fun _ _ _ => ⟨_, _, rfl, rfl⟩
theorem Reassemble.ldaDir (dOff : Byte) : Reassemble.Statement (.ldaDir dOff) := fun _ _ _ => ⟨_, _, rfl, rfl⟩
theorem Reassemble.ldxDir (dOff : Byte) : Reassemble.Statement (.ldxDir dOff) := fun _ _ _ => ⟨_, _, rfl, rfl⟩
theorem Reassemble.ldaDirIndLong (dOff : Byte) : Reassemble.Statement (.ldaDirIndLong dOff) := fun _ _ _ => ⟨_, _, rfl, rfl⟩
theorem Reassemble.tay : Reassemble.Statement .tay := fun _ _ _ => ⟨_, _, rfl, rfl⟩
theorem Reassemble.ldaImm (imm : Word) : Reassemble.Statement (.ldaImm imm) := fun f rest h =>
  ⟨_, _, rfl, congrArg Instr.ldaImm (imm_parts f f.m imm rest h)⟩
theorem Reassemble.tax : Reassemble.Statement .tax := fun _ _ _ => ⟨_, _, rfl, rfl⟩
theorem Reassemble.plb : Reassemble.Statement .plb := fun _ _ _ => ⟨_, _, rfl, rfl⟩
theorem Reassemble.ldyAbs (aa : Word) : Reassemble.Statement (.ldyAbs aa) := fun _ _ _ =>
  ⟨_, _, rfl, congrArg Instr.ldyAbs (word_hi_lo aa)⟩
theorem Reassemble.ldaAbs (aa : Word) : Reassemble.Statement (.ldaAbs aa) := fun _ _ _ =>
  ⟨_, _, rfl, congrArg Instr.ldaAbs (word_hi_lo aa)⟩
theorem Reassemble.ldxAbs (aa : Word) : Reassemble.Statement (.ldxAbs aa) := fun _ _ _ =>
  ⟨_, _, rfl, congrArg Instr.ldxAbs (word_hi_lo aa)⟩
theorem Reassemble.ldaLong (aal : Addr) : Reassemble.Statement (.ldaLong aal) := fun _ _ _ =>
  ⟨_, _, rfl, congrArg Instr.ldaLong (addr_parts aal)⟩
theorem Reassemble.bcs (off : Byte) : Reassemble.Statement (.bcs off) := fun _ _ _ => ⟨_, _, rfl, rfl⟩
theorem Reassemble.ldaDirIndY (dOff : Byte) : Reassemble.Statement (.ldaDirIndY dOff) := fun _ _ _ => ⟨_, _, rfl, rfl⟩
theorem Reassemble.ldaDirInd (dOff : Byte) : Reassemble.Statement (.ldaDirInd dOff) := fun _ _ _ => ⟨_, _, rfl, rfl⟩
theorem Reassemble.ldaSrIndY (so : Byte) : Reassemble.Statement (.ldaSrIndY so) := fun _ _ _ => ⟨_, _, rfl, rfl⟩
theorem Reassemble.ldyDirX (dOff : Byte) : Reassemble.Statement (.ldyDirX dOff) := fun _ _ _ => ⟨_, _, rfl, rfl⟩
theorem Reassemble.ldaDirX (dOff : Byte) : Reassemble.Statement (.ldaDirX dOff) := fun _ _ _ => ⟨_, _, rfl, rfl⟩
theorem Reassemble.ldxDirY (dOff : Byte) : Reassemble.Statement (.ldxDirY dOff) := fun _ _ _ => ⟨_, _, rfl, rfl⟩
theorem Reassemble.ldaDirIndLongY (dOff : Byte) : Reassemble.Statement (.ldaDirIndLongY dOff) := fun _ _ _ => ⟨_, _, rfl, rfl⟩
theorem Reassemble.clv : Reassemble.Statement .clv := fun _ _ _ => ⟨_, _, rfl, rfl⟩
theorem Reassemble.ldaAbsY (aa : Word) : Reassemble.Statement (.ldaAbsY aa) := fun _ _ _ =>
  ⟨_, _, rfl, congrArg Instr.ldaAbsY (word_hi_lo aa)⟩
theorem Reassemble.tsx : Reassemble.Statement .tsx := fun _ _ _ => ⟨_, _, rfl, rfl⟩
theorem Reassemble.tyx : Reassemble.Statement .tyx := fun _ _ _ => ⟨_, _, rfl, rfl⟩
theorem Reassemble.ldyAbsX (aa : Word) : Reassemble.Statement (.ldyAbsX aa) := fun _ _ _ =>
  ⟨_, _, rfl, congrArg Instr.ldyAbsX (word_hi_lo aa)⟩
theorem Reassemble.ldaAbsX (aa : Word) : Reassemble.Statement (.ldaAbsX aa) := fun _ _ _ =>
  ⟨_, _, rfl, congrArg Instr.ldaAbsX (word_hi_lo aa)⟩
theorem Reassemble.ldxAbsY (aa : Word) : Reassemble.Statement (.ldxAbsY aa) := fun _ _ _ =>
  ⟨_, _, rfl, congrArg Instr.ldxAbsY (word_hi_lo aa)⟩
theorem Reassemble.ldaLongX (aal : Addr) : Reassemble.Statement (.ldaLongX aal) := fun _ _ _ =>
  ⟨_, _, rfl, congrArg Instr.ldaLongX (addr_parts aal)⟩
theorem Reassemble.cpyImm (imm : Word) : Reassemble.Statement (.cpyImm imm) := fun f rest h =>
  ⟨_, _, rfl, congrArg Instr.cpyImm (imm_parts f f.x imm rest h)⟩
theorem Reassemble.cmpDirIndX (dOff : Byte) : Reassemble.Statement (.cmpDirIndX dOff) := fun _ _ _ => ⟨_, _, rfl, rfl⟩
theorem Reassemble.rep (mask : Byte) : Reassemble.Statement (.rep mask) := fun _ _ _ => ⟨_, _, rfl, rfl⟩
theorem Reassemble.cmpSr (so : Byte) : Reassemble.Statement (.cmpSr so) := fun _ _ _ => ⟨_, _, rfl, rfl⟩
theorem Reassemble.cpyDir (dOff : Byte) : Reassemble.Statement (.cpyDir dOff) := fun _ _ _ => ⟨_, _, rfl, rfl⟩
theorem Reassemble.cmpDir (dOff : Byte) : Reassemble.Statement (.cmpDir dOff) := fun _ _ _ => ⟨_, _, rfl, rfl⟩
theorem Reassemble.decDir (dOff : Byte) : Reassemble.Statement (.decDir dOff) := fun _ _ _ => ⟨_, _, rfl, rfl⟩
theorem Reassemble.cmpDirIndLong (dOff : Byte) : Reassemble.Statement (.cmpDirIndLong dOff) := fun _ _ _ => ⟨_, _, rfl, rfl⟩
theorem Reassemble.iny : Reassemble.Statement .iny := fun _ _ _ => ⟨_, _, rfl, rfl⟩
theorem Reassemble.cmpImm (imm : Word) : Reassemble.Statement (.cmpImm imm) := fun f rest h =>
  ⟨_, _, rfl, congrArg Instr.cmpImm (imm_parts f f.m imm rest h)⟩
theorem Reassemble.dex : Reassemble.Statement .dex := fun _ _ _ => ⟨_, _, rfl, rfl⟩
theorem Reassemble.wai : Reassemble.Statement .wai := fun _ _ _ => ⟨_, _, rfl, rfl⟩
theorem Reassemble.cpyAbs (aa : Word) : Reassemble.Statement (.cpyAbs aa) := fun _ _ _ =>
  ⟨_, _, rfl, congrArg Instr.cpyAbs (word_hi_lo aa)⟩
theorem Reassemble.cmpAbs (aa : Word) : Reassemble.Statement (.cmpAbs aa) := fun _ _ _ =>
  ⟨_, _, rfl, congrArg Instr.cmpAbs (word_hi_lo aa)⟩
theorem Reassemble.decAbs (aa : Word) : Reassemble.Statement (.decAbs aa) := fun _ _ _ =>
  ⟨_, _, rfl, congrArg Instr.decAbs (word_hi_lo aa)⟩
theorem Reassemble.cmpLong (aal : Addr) : Reassemble.Statement (.cmpLong aal) := fun _ _ _ =>
  ⟨_, _, rfl, congrArg Instr.cmpLong (addr_parts aal)⟩
theorem Reassemble.bne (off : Byte) : Reassemble.Statement (.bne off) := fun _ _ _ => ⟨_, _, rfl, rfl⟩
theorem Reassemble.cmpDirIndY (dOff : Byte) : Reassemble.Statement (.cmpDirIndY dOff) := fun _ _ _ => ⟨_, _, rfl, rfl⟩
theorem Reassemble.cmpDirInd (dOff : Byte) : Reassemble.Statement (.cmpDirInd dOff) := fun _ _ _ => ⟨_, _, rfl, rfl⟩
theorem Reassemble.cmpSrIndY (so : Byte) : Reassemble.Statement (.cmpSrIndY so) := fun _ _ _ => ⟨_, _, rfl, rfl⟩
theorem Reassemble.pei (dOff : Byte) : Reassemble.Statement (.pei dOff) := fun _ _ _ => ⟨_, _, rfl, rfl⟩
theorem Reassemble.cmpDirX (dOff : Byte) : Reassemble.Statement (.cmpDirX dOff) := fun _ _ _ => ⟨_, _, rfl, rfl⟩
theorem Reassemble.decDirX (dOff : Byte) : Reassemble.Statement (.decDirX dOff) := fun _ _ _ => ⟨_, _, rfl, rfl⟩
theorem Reassemble.cmpDirIndLongY (dOff : Byte) : Reassemble.Statement (.cmpDirIndLongY dOff) := fun _ _ _ => ⟨_, _, rfl, rfl⟩
theorem Reassemble.cld : Reassemble.Statement .cld := fun _ _ _ => ⟨_, _, rfl, rfl⟩
theorem Reassemble.cmpAbsY (aa : Word) : Reassemble.Statement (.cmpAbsY aa) := fun _ _ _ =>
  ⟨_, _, rfl, congrArg Instr.cmpAbsY (word_hi_lo aa)⟩
theorem Reassemble.phx : Reassemble.Statement .phx := fun _ _ _ => ⟨_, _, rfl, rfl⟩
theorem Reassemble.stp : Reassemble.Statement .stp := fun _ _ _ => ⟨_, _, rfl, rfl⟩
theorem Reassemble.jml (aa : Word) : Reassemble.Statement (.jml aa) := fun _ _ _ =>
  ⟨_, _, rfl, congrArg Instr.jml (word_hi_lo aa)⟩
theorem Reassemble.cmpAbsX (aa : Word) : Reassemble.Statement (.cmpAbsX aa) := fun _ _ _ =>
  ⟨_, _, rfl, congrArg Instr.cmpAbsX (word_hi_lo aa)⟩
theorem Reassemble.decAbsX (aa : Word) : Reassemble.Statement (.decAbsX aa) := fun _ _ _ =>
  ⟨_, _, rfl, congrArg Instr.decAbsX (word_hi_lo aa)⟩
theorem Reassemble.cmpLongX (aal : Addr) : Reassemble.Statement (.cmpLongX aal) := fun _ _ _ =>
  ⟨_, _, rfl, congrArg Instr.cmpLongX (addr_parts aal)⟩
theorem Reassemble.cpxImm (imm : Word) : Reassemble.Statement (.cpxImm imm) := fun f rest h =>
  ⟨_, _, rfl, congrArg Instr.cpxImm (imm_parts f f.x imm rest h)⟩
theorem Reassemble.sbcDirIndX (dOff : Byte) : Reassemble.Statement (.sbcDirIndX dOff) := fun _ _ _ => ⟨_, _, rfl, rfl⟩
theorem Reassemble.sep (mask : Byte) : Reassemble.Statement (.sep mask) := fun _ _ _ => ⟨_, _, rfl, rfl⟩
theorem Reassemble.sbcSr (so : Byte) : Reassemble.Statement (.sbcSr so) := fun _ _ _ => ⟨_, _, rfl, rfl⟩
theorem Reassemble.cpxDir (dOff : Byte) : Reassemble.Statement (.cpxDir dOff) := fun _ _ _ => ⟨_, _, rfl, rfl⟩
theorem Reassemble.sbcDir (dOff : Byte) : Reassemble.Statement (.sbcDir dOff) := fun _ _ _ => ⟨_, _, rfl, rfl⟩
theorem Reassemble.incDir (dOff : Byte) : Reassemble.Statement (.incDir dOff) := fun _ _ _ => ⟨_, _, rfl, rfl⟩
theorem Reassemble.sbcDirIndLong (dOff : Byte) : Reassemble.Statement (.sbcDirIndLong dOff) := fun _ _ _ => ⟨_, _, rfl, rfl⟩
theorem Reassemble.inx : Reassemble.Statement .inx := fun _ _ _ => ⟨_, _, rfl, rfl⟩
theorem Reassemble.sbcImm (imm : Word) : Reassemble.Statement (.sbcImm imm) := fun f rest h =>
  ⟨_, _, rfl, congrArg Instr.sbcImm (imm_parts f f.m imm rest h)⟩
theorem Reassemble.nop : Reassemble.Statement .nop := fun _ _ _ => ⟨_, _, rfl, rfl⟩
theorem Reassemble.xba : Reassemble.Statement .xba := fun _ _ _ => ⟨_, _, rfl, rfl⟩
theorem Reassemble.cpxAbs (aa : Word) : Reassemble.Statement (.cpxAbs aa) := fun _ _ _ =>
  ⟨_, _, rfl, congrArg Instr.cpxAbs (word_hi_lo aa)⟩
theorem Reassemble.sbcAbs (aa : Word) : Reassemble.Statement (.sbcAbs aa) := fun _ _ _ =>
  ⟨_, _, rfl, congrArg Instr.sbcAbs (word_hi_lo aa)⟩
theorem Reassemble.incAbs (aa : Word) : Reassemble.Statement (.incAbs aa) := fun _ _ _ =>
  ⟨_, _, rfl, congrArg Instr.incAbs (word_hi_lo aa)⟩
theorem Reassemble.sbcLong (aal : Addr) : Reassemble.Statement (.sbcLong aal) := fun _ _ _ =>
  ⟨_, _, rfl, congrArg Instr.sbcLong (addr_parts aal)⟩
theorem Reassemble.beq (off : Byte) : Reassemble.Statement (.beq off) := fun _ _ _ => ⟨_, _, rfl, rfl⟩
theorem Reassemble.sbcDirIndY (dOff : Byte) : Reassemble.Statement (.sbcDirIndY dOff) := fun _ _ _ => ⟨_, _, rfl, rfl⟩
theorem Reassemble.sbcDirInd (dOff : Byte) : Reassemble.Statement (.sbcDirInd dOff) := fun _ _ _ => ⟨_, _, rfl, rfl⟩
theorem Reassemble.sbcSrIndY (so : Byte) : Reassemble.Statement (.sbcSrIndY so) := fun _ _ _ => ⟨_, _, rfl, rfl⟩
theorem Reassemble.pea (aa : Word) : Reassemble.Statement (.pea aa) := fun _ _ _ =>
  ⟨_, _, rfl, congrArg Instr.pea (word_hi_lo aa)⟩
theorem Reassemble.sbcDirX (dOff : Byte) : Reassemble.Statement (.sbcDirX dOff) := fun _ _ _ => ⟨_, _, rfl, rfl⟩
theorem Reassemble.incDirX (dOff : Byte) : Reassemble.Statement (.incDirX dOff) := fun _ _ _ => ⟨_, _, rfl, rfl⟩
theorem Reassemble.sbcDirIndLongY (dOff : Byte) : Reassemble.Statement (.sbcDirIndLongY dOff) := fun _ _ _ => ⟨_, _, rfl, rfl⟩
theorem Reassemble.sed : Reassemble.Statement .sed := fun _ _ _ => ⟨_, _, rfl, rfl⟩
theorem Reassemble.sbcAbsY (aa : Word) : Reassemble.Statement (.sbcAbsY aa) := fun _ _ _ =>
  ⟨_, _, rfl, congrArg Instr.sbcAbsY (word_hi_lo aa)⟩
theorem Reassemble.plx : Reassemble.Statement .plx := fun _ _ _ => ⟨_, _, rfl, rfl⟩
theorem Reassemble.xce : Reassemble.Statement .xce := fun _ _ _ => ⟨_, _, rfl, rfl⟩
theorem Reassemble.jsrAbsIndX (aa : Word) : Reassemble.Statement (.jsrAbsIndX aa) := fun _ _ _ =>
  ⟨_, _, rfl, congrArg Instr.jsrAbsIndX (word_hi_lo aa)⟩
theorem Reassemble.sbcAbsX (aa : Word) : Reassemble.Statement (.sbcAbsX aa) := fun _ _ _ =>
  ⟨_, _, rfl, congrArg Instr.sbcAbsX (word_hi_lo aa)⟩
theorem Reassemble.incAbsX (aa : Word) : Reassemble.Statement (.incAbsX aa) := fun _ _ _ =>
  ⟨_, _, rfl, congrArg Instr.incAbsX (word_hi_lo aa)⟩
theorem Reassemble.sbcLongX (aal : Addr) : Reassemble.Statement (.sbcLongX aal) := fun _ _ _ =>
  ⟨_, _, rfl, congrArg Instr.sbcLongX (addr_parts aal)⟩

end Sys2Proof.Laws
end

