-- ==== Sys2Proof/Laws/Step.lean ====
section
/-! SUPPORT. What the boundary decides and what a step does with it, one lemma per case. -/

namespace Sys2Proof.Machine

/-! ### The boundary -/

/-- What a sampled state does: one of four cases. -/
theorem decideAction_cases (s : State) :
    (s.pins.resb = false ∧ decideAction s = (s, .reset)) ∨
    (s.pins.resb = true ∧ s.stopped = true ∧ decideAction s = (s, .stopped)) ∨
    (s.pins.resb = true ∧ s.stopped = false ∧ s.waiting = true ∧ decideAction s = wakeUp s.latchNmi) ∨
    (s.pins.resb = true ∧ s.stopped = false ∧ s.waiting = false ∧ decideAction s = (s.latchNmi, recognise s.latchNmi)) := by
  cases h : s.pins.resb <;> cases hs : s.stopped <;> cases hw : s.waiting <;> simp [decideAction, h, hs, hw]

/-- The boundary of a step in which RESB does not fall. -/
theorem boundary_uncut (s : State) (h : s.sample.pins.resetAfter = none) : boundary s = decideAction s.sample := by
  simp [boundary, h, Action.cut]

/-- What RESB falling in the middle of a step makes of its action. -/
theorem cut_cases (a : Action) (o : Option Nat) :
    a.cut o = a ∨ ∃ n, o = some n ∧ a ≠ .abortDuringAbort ∧ a.cut o = .abandon n a := by
  cases o with
  | none => exact .inl rfl
  | some n =>
    by_cases h : a = .abortDuringAbort
    · exact .inl (by simp [Action.cut, h])
    · exact .inr ⟨n, rfl, h, by simp [Action.cut, h]⟩

/-- RESB low. -/
theorem boundary_reset (s : State) (h : s.sample.pins.resb = false) (hc : s.sample.pins.resetAfter = none) :
    boundary s = (s.sample, .reset) := by
  simp [boundary_uncut, hc, decideAction, h]

/-- A stopped processor. -/
theorem boundary_stopped (s : State) (h : s.sample.pins.resb = true) (hc : s.sample.pins.resetAfter = none)
    (hs : s.stopped = true) : boundary s = (s.sample, .stopped) := by
  simp [boundary_uncut, hc, decideAction, h, hs]

/-- A waiting processor. -/
theorem boundary_waiting (s : State) (h : s.sample.pins.resb = true) (hc : s.sample.pins.resetAfter = none)
    (hs : s.stopped = false) (hw : s.waiting = true) : boundary s = wakeUp s.sample.latchNmi := by
  simp [boundary_uncut, hc, decideAction, h, hs, hw]

/-- A running processor. -/
theorem boundary_running (s : State) (h : s.sample.pins.resb = true) (hc : s.sample.pins.resetAfter = none)
    (hs : s.stopped = false) (hw : s.waiting = false) :
    boundary s = (s.sample.latchNmi, recognise s.sample.latchNmi) := by
  simp [boundary_uncut, hc, decideAction, h, hs, hw]

/-- The boundary of any processor: one of the four cases, cut short if RESB falls in the step. -/
theorem boundary_cases (s : State) :
    ∃ a, (boundary s).2 = a.cut s.sample.pins.resetAfter ∧
    ((s.sample.pins.resb = false ∧ (boundary s).1 = s.sample ∧ a = .reset) ∨
    (s.sample.pins.resb = true ∧ s.stopped = true ∧ (boundary s).1 = s.sample ∧ a = .stopped) ∨
    (s.sample.pins.resb = true ∧ s.stopped = false ∧ s.waiting = true ∧
      (boundary s).1 = (wakeUp s.sample.latchNmi).1 ∧ a = (wakeUp s.sample.latchNmi).2) ∨
    (s.sample.pins.resb = true ∧ s.stopped = false ∧ s.waiting = false ∧
      (boundary s).1 = s.sample.latchNmi ∧ a = recognise s.sample.latchNmi)) := by
  refine ⟨(decideAction s.sample).2, rfl, ?_⟩
  have h : (boundary s).1 = (decideAction s.sample).1 := rfl
  rw [h]
  rcases decideAction_cases s.sample with ⟨a, e⟩ | ⟨a, b, e⟩ | ⟨a, b, c, e⟩ | ⟨a, b, c, e⟩ <;> rw [e] <;> simp_all

/-- The state a waiting processor resumes in. -/
def awake (s : State) : State := { s.latchAbort with waiting := false }

/-- The boundary while waiting: still waiting, or awake with an action. -/
theorem wakeUp_cases (s : State) :
    (s.nmiPending = false ∧ s.pins.irqb = true ∧ wakeUp s = (s.latchAbort, .waiting)) ∨
    ((s.nmiPending = true ∨ s.pins.irqb = false) ∧ wakeUp s = (awake s,
      if (s.abortPending || s.pins.abort) = true then .take .abort (s.pc - 1) else if s.nmiPending = true then .take .nmi s.pc
      else if s.fI = true then .run else .take .irq s.pc)) := by
  unfold wakeUp
  cases hn : s.nmiPending <;> cases hi : s.pins.irqb <;> simp [hn, hi, awake]
  all_goals
    cases ha : s.abortPending <;> cases hb : s.pins.abort <;>
      simp [State.latchAbort, ha, hb, hn, State.fI]
  all_goals split <;> rfl

/-- The boundary changes nothing but the inputs, the latches, the wait, and memory where the platform changes it. -/
theorem boundary_kept (s : State) :
    OnlyChanges [.nmiPending, .nmiPrev, .abortPending, .waiting, .pins, .input, .mem] s (boundary s).1 := by
  obtain ⟨_, _, ⟨_, h, _⟩ | ⟨_, _, h, _⟩ | ⟨_, _, _, h, _⟩ | ⟨_, _, _, h, _⟩⟩ := boundary_cases s <;> rw [h]
  · intro f hf; cases f <;> simp_all [Field.same]
  · intro f hf; cases f <;> simp_all [Field.same]
  · rcases wakeUp_cases s.sample.latchNmi with ⟨_, _, h⟩ | ⟨_, h⟩ <;> rw [h] <;> intro f hf <;> cases f <;>
      simp_all [Field.same, awake]
  · intro f hf; cases f <;> simp_all [Field.same]

/-- The inputs in force, the samples to come and memory are those of the sample. -/
theorem boundary_sampled (s : State) :
    (boundary s).1.pins = s.sample.pins ∧ (boundary s).1.input = s.sample.input ∧ (boundary s).1.mem = s.sample.mem := by
  obtain ⟨_, _, ⟨_, h, _⟩ | ⟨_, _, h, _⟩ | ⟨_, _, _, h, _⟩ | ⟨_, _, _, h, _⟩⟩ := boundary_cases s <;> rw [h]
  · exact ⟨rfl, rfl, rfl⟩
  · exact ⟨rfl, rfl, rfl⟩
  · rcases wakeUp_cases s.sample.latchNmi with ⟨_, _, h⟩ | ⟨_, h⟩ <;> rw [h] <;> exact ⟨rfl, rfl, rfl⟩
  · exact ⟨rfl, rfl, rfl⟩

@[simp] theorem boundary_mem (s : State) : (boundary s).1.mem = s.sample.mem := (boundary_sampled s).2.2
@[simp] theorem boundary_pins (s : State) : (boundary s).1.pins = s.sample.pins := (boundary_sampled s).1
@[simp] theorem boundary_input (s : State) : (boundary s).1.input = s.sample.input := (boundary_sampled s).2.1
@[simp] theorem boundary_p (s : State) : (boundary s).1.p = s.p := boundary_kept s .p (by simp)
@[simp] theorem boundary_e (s : State) : (boundary s).1.e = s.e := boundary_kept s .e (by simp)
@[simp] theorem boundary_sp (s : State) : (boundary s).1.sp = s.sp := boundary_kept s .sp (by simp)
@[simp] theorem boundary_x (s : State) : (boundary s).1.x = s.x := boundary_kept s .x (by simp)
@[simp] theorem boundary_y (s : State) : (boundary s).1.y = s.y := boundary_kept s .y (by simp)
@[simp] theorem boundary_c (s : State) : (boundary s).1.c = s.c := boundary_kept s .c (by simp)
@[simp] theorem boundary_d (s : State) : (boundary s).1.d = s.d := boundary_kept s .d (by simp)
@[simp] theorem boundary_pc (s : State) : (boundary s).1.pc = s.pc := boundary_kept s .pc (by simp)
@[simp] theorem boundary_pbr (s : State) : (boundary s).1.pbr = s.pbr := boundary_kept s .pbr (by simp)
@[simp] theorem boundary_dbr (s : State) : (boundary s).1.dbr = s.dbr := boundary_kept s .dbr (by simp)

/-! ### The step -/

theorem step_eq (s : State) : step s = perform (boundary s).1 (boundary s).2 := rfl

/-- What a step that runs an instruction does. -/
theorem perform_run (s u : State) (h : exec s.fetch s = .next u) : perform s .run = .next (settle s (settleMX s.fetch u)) := by
  simp [perform, h]

theorem perform_take (s : State) (k : IntKind) (r : Word) : perform s (.take k r) = .next (takeInterrupt k r s) := rfl

/-- A taken interrupt without an ABORTB pulse. -/
theorem takeInterrupt_noAbort (k : IntKind) (r : Word) (s : State) (h : s.pins.abort = false) :
    takeInterrupt k r s = { interrupt k r s with mxInvalid := false } := by
  cases k <;> simp [takeInterrupt, settle, h]

/-- The abort sequence itself. -/
theorem takeInterrupt_abort (r : Word) (s : State) :
    takeInterrupt .abort r s = { interrupt .abort r s with mxInvalid := false } := rfl

theorem settle_noAbort (s t : State) (h : s.pins.abort = false) : settle s t = t := by simp [settle, h]

/-- The state an ABORTB pulse leaves. -/
theorem settle_abort (s t : State) (h : s.pins.abort = true) : settle s t = suppress s t := by simp [settle, h]

@[simp] theorem settle_mem (s t : State) : (settle s t).mem = t.mem := by unfold settle suppress; split <;> rfl
@[simp] theorem takeInterrupt_mem (k : IntKind) (r : Word) (s : State) :
    (takeInterrupt k r s).mem = (interrupt k r s).mem := by cases k <;> simp [takeInterrupt]

/-! ### Reset in the middle of a step -/

/-- A step that RESB cuts short is the reset sequence over the memory the writes made so far left, and over the answers the
reads made so far left. -/
theorem abandonStep_eq (n : Nat) (a : Action) (s : State) :
    abandonStep n a s = { resetStep (abandoned n (actionCycles s a) s) with pins := s.pins } := rfl

@[simp] theorem abandonStep_mem (n : Nat) (a : Action) (s : State) :
    (abandonStep n a s).mem = applyCycles s.mem ((actionCycles s a).take n) := rfl

/-! ### Runs -/

/-- A run whose first step answers a next state goes on from there. -/
theorem run_next (n : Nat) (s t : State) (h : step s = .next t) :
    Sys2Proof.core.run (n + 1) s = Sys2Proof.core.run n t := by
  have h' : Sys2Proof.core.step s = .next t := h
  simp only [Host.Core.run, h']

end Sys2Proof.Machine
end

