-- ==== Sys2Proof/Tests/Slice0.lean ====
section
/-! SUPPORT. Tests of the model: words of the encoding tables, ill-formed terms, one step of each kind, and a witness for every
statement of Obligations.lean that has hypotheses. -/

namespace Sys2Proof.Machine.Tests

/-! ### Helpers -/

/-- A state given by its registers, with some bytes of memory. -/
def mk (c x y sp d : Word) (dbr pbr : Byte) (pc : Word) (p : Byte) (e : Bool) (m : List (Nat × Byte)) : State :=
  { State.reset with
    c := c, x := x, y := y, sp := sp, d := d, dbr := dbr, pbr := pbr, pc := pc, p := p, e := e
    mem := m.foldl (fun a q => Memory.write a q.1 q.2) [] }

/-- A native-mode state with 16-bit registers. -/
def wide : State := mk 0x1234 0x5678 0x9ABC 0x01FF 0x0000 0x00 0x00 0x8000 0x00 false []

/-- A native-mode state with 8-bit registers. -/
def narrow : State := mk 0x1234 0x0078 0x00BC 0x01FF 0x0000 0x00 0x00 0x8000 0x30 false []

/-- An emulation-mode state. -/
def emu : State := mk 0x1234 0x0078 0x00BC 0x01FF 0x0000 0x00 0x00 0x8000 0x30 true []

/-- One step answers a next state that passes a check. -/
def stepTo (s : State) (f : State → Bool) : Bool :=
  match step s with
  | .next t => f t
  | .fault _ => false
  | .refused _ => false

/-- The state after a step that answers a next state. -/
def stepped (s : State) : State :=
  match step s with
  | .next t => t
  | .fault _ => s
  | .refused _ => s

/-- The state after an instruction. -/
def after (i : Instr) (s : State) : State :=
  match exec i s with
  | .next t => t
  | .fault _ => s
  | .refused _ => s

/-! ### Decoding: every opcode of DS Table 6-4 with the operand bytes 11 22 33, row by row of the matrix -/

/-- What an opcode and the operand bytes 11 22 33 decode to, with 16-bit immediates. -/
def read (op : Byte) : Option Instr :=
  match decode ⟨false, false⟩ [op, 0x11, 0x22, 0x33] with
  | .ok (i, _) => some i
  | .error _ => none

theorem test_decode_row0 : ((List.range 16).map fun c => read (BitVec.ofNat 8 (0x00 + c))) =
    [.brk 0x11, .oraDirIndX 0x11, .cop 0x11, .oraSr 0x11, .tsbDir 0x11, .oraDir 0x11, .aslDir 0x11,
      .oraDirIndLong 0x11, .php, .oraImm 0x2211, .aslAcc, .phd, .tsbAbs 0x2211, .oraAbs 0x2211, .aslAbs 0x2211,
      .oraLong 0x332211].map some := by decide

theorem test_decode_row1 : ((List.range 16).map fun c => read (BitVec.ofNat 8 (0x10 + c))) =
    [.bpl 0x11, .oraDirIndY 0x11, .oraDirInd 0x11, .oraSrIndY 0x11, .trbDir 0x11, .oraDirX 0x11, .aslDirX 0x11,
      .oraDirIndLongY 0x11, .clc, .oraAbsY 0x2211, .incAcc, .tcs, .trbAbs 0x2211, .oraAbsX 0x2211, .aslAbsX 0x2211,
      .oraLongX 0x332211].map some := by decide

theorem test_decode_row2 : ((List.range 16).map fun c => read (BitVec.ofNat 8 (0x20 + c))) =
    [.jsrAbs 0x2211, .andDirIndX 0x11, .jsl 0x332211, .andSr 0x11, .bitDir 0x11, .andDir 0x11, .rolDir 0x11,
      .andDirIndLong 0x11, .plp, .andImm 0x2211, .rolAcc, .pld, .bitAbs 0x2211, .andAbs 0x2211, .rolAbs 0x2211,
      .andLong 0x332211].map some := by decide

theorem test_decode_row3 : ((List.range 16).map fun c => read (BitVec.ofNat 8 (0x30 + c))) =
    [.bmi 0x11, .andDirIndY 0x11, .andDirInd 0x11, .andSrIndY 0x11, .bitDirX 0x11, .andDirX 0x11, .rolDirX 0x11,
      .andDirIndLongY 0x11, .sec, .andAbsY 0x2211, .decAcc, .tsc, .bitAbsX 0x2211, .andAbsX 0x2211, .rolAbsX 0x2211,
      .andLongX 0x332211].map some := by decide

theorem test_decode_row4 : ((List.range 16).map fun c => read (BitVec.ofNat 8 (0x40 + c))) =
    [.rti, .eorDirIndX 0x11, .wdm 0x11, .eorSr 0x11, .mvp 0x11 0x22, .eorDir 0x11, .lsrDir 0x11, .eorDirIndLong 0x11,
      .pha, .eorImm 0x2211, .lsrAcc, .phk, .jmpAbs 0x2211, .eorAbs 0x2211, .lsrAbs 0x2211, .eorLong 0x332211].map some := by decide

theorem test_decode_row5 : ((List.range 16).map fun c => read (BitVec.ofNat 8 (0x50 + c))) =
    [.bvc 0x11, .eorDirIndY 0x11, .eorDirInd 0x11, .eorSrIndY 0x11, .mvn 0x11 0x22, .eorDirX 0x11, .lsrDirX 0x11,
      .eorDirIndLongY 0x11, .cli, .eorAbsY 0x2211, .phy, .tcd, .jmpLong 0x332211, .eorAbsX 0x2211, .lsrAbsX 0x2211,
      .eorLongX 0x332211].map some := by decide

theorem test_decode_row6 : ((List.range 16).map fun c => read (BitVec.ofNat 8 (0x60 + c))) =
    [.rts, .adcDirIndX 0x11, .per 0x2211, .adcSr 0x11, .stzDir 0x11, .adcDir 0x11, .rorDir 0x11, .adcDirIndLong 0x11,
      .pla, .adcImm 0x2211, .rorAcc, .rtl, .jmpAbsInd 0x2211, .adcAbs 0x2211, .rorAbs 0x2211, .adcLong 0x332211].map some := by decide

theorem test_decode_row7 : ((List.range 16).map fun c => read (BitVec.ofNat 8 (0x70 + c))) =
    [.bvs 0x11, .adcDirIndY 0x11, .adcDirInd 0x11, .adcSrIndY 0x11, .stzDirX 0x11, .adcDirX 0x11, .rorDirX 0x11,
      .adcDirIndLongY 0x11, .sei, .adcAbsY 0x2211, .ply, .tdc, .jmpAbsIndX 0x2211, .adcAbsX 0x2211, .rorAbsX 0x2211,
      .adcLongX 0x332211].map some := by decide

theorem test_decode_row8 : ((List.range 16).map fun c => read (BitVec.ofNat 8 (0x80 + c))) =
    [.bra 0x11, .staDirIndX 0x11, .brl 0x2211, .staSr 0x11, .styDir 0x11, .staDir 0x11, .stxDir 0x11,
      .staDirIndLong 0x11, .dey, .bitImm 0x2211, .txa, .phb, .styAbs 0x2211, .staAbs 0x2211, .stxAbs 0x2211,
      .staLong 0x332211].map some := by decide

theorem test_decode_row9 : ((List.range 16).map fun c => read (BitVec.ofNat 8 (0x90 + c))) =
    [.bcc 0x11, .staDirIndY 0x11, .staDirInd 0x11, .staSrIndY 0x11, .styDirX 0x11, .staDirX 0x11, .stxDirY 0x11,
      .staDirIndLongY 0x11, .tya, .staAbsY 0x2211, .txs, .txy, .stzAbs 0x2211, .staAbsX 0x2211, .stzAbsX 0x2211,
      .staLongX 0x332211].map some := by decide

theorem test_decode_rowA : ((List.range 16).map fun c => read (BitVec.ofNat 8 (0xA0 + c))) =
    [.ldyImm 0x2211, .ldaDirIndX 0x11, .ldxImm 0x2211, .ldaSr 0x11, .ldyDir 0x11, .ldaDir 0x11, .ldxDir 0x11,
      .ldaDirIndLong 0x11, .tay, .ldaImm 0x2211, .tax, .plb, .ldyAbs 0x2211, .ldaAbs 0x2211, .ldxAbs 0x2211,
      .ldaLong 0x332211].map some := by decide

theorem test_decode_rowB : ((List.range 16).map fun c => read (BitVec.ofNat 8 (0xB0 + c))) =
    [.bcs 0x11, .ldaDirIndY 0x11, .ldaDirInd 0x11, .ldaSrIndY 0x11, .ldyDirX 0x11, .ldaDirX 0x11, .ldxDirY 0x11,
      .ldaDirIndLongY 0x11, .clv, .ldaAbsY 0x2211, .tsx, .tyx, .ldyAbsX 0x2211, .ldaAbsX 0x2211, .ldxAbsY 0x2211,
      .ldaLongX 0x332211].map some := by decide

theorem test_decode_rowC : ((List.range 16).map fun c => read (BitVec.ofNat 8 (0xC0 + c))) =
    [.cpyImm 0x2211, .cmpDirIndX 0x11, .rep 0x11, .cmpSr 0x11, .cpyDir 0x11, .cmpDir 0x11, .decDir 0x11,
      .cmpDirIndLong 0x11, .iny, .cmpImm 0x2211, .dex, .wai, .cpyAbs 0x2211, .cmpAbs 0x2211, .decAbs 0x2211,
      .cmpLong 0x332211].map some := by decide

theorem test_decode_rowD : ((List.range 16).map fun c => read (BitVec.ofNat 8 (0xD0 + c))) =
    [.bne 0x11, .cmpDirIndY 0x11, .cmpDirInd 0x11, .cmpSrIndY 0x11, .pei 0x11, .cmpDirX 0x11, .decDirX 0x11,
      .cmpDirIndLongY 0x11, .cld, .cmpAbsY 0x2211, .phx, .stp, .jml 0x2211, .cmpAbsX 0x2211, .decAbsX 0x2211,
      .cmpLongX 0x332211].map some := by decide

theorem test_decode_rowE : ((List.range 16).map fun c => read (BitVec.ofNat 8 (0xE0 + c))) =
    [.cpxImm 0x2211, .sbcDirIndX 0x11, .sep 0x11, .sbcSr 0x11, .cpxDir 0x11, .sbcDir 0x11, .incDir 0x11,
      .sbcDirIndLong 0x11, .inx, .sbcImm 0x2211, .nop, .xba, .cpxAbs 0x2211, .sbcAbs 0x2211, .incAbs 0x2211,
      .sbcLong 0x332211].map some := by decide

theorem test_decode_rowF : ((List.range 16).map fun c => read (BitVec.ofNat 8 (0xF0 + c))) =
    [.beq 0x11, .sbcDirIndY 0x11, .sbcDirInd 0x11, .sbcSrIndY 0x11, .pea 0x2211, .sbcDirX 0x11, .incDirX 0x11,
      .sbcDirIndLongY 0x11, .sed, .sbcAbsY 0x2211, .plx, .xce, .jsrAbsIndX 0x2211, .sbcAbsX 0x2211, .incAbsX 0x2211,
      .sbcLongX 0x332211].map some := by decide

/-- An immediate of 8 bits is one byte (30_encoding.md R103): the next byte is left over. -/
theorem test_decode_imm8 : decode ⟨true, true⟩ [0xA9, 0x11, 0x22] = .ok (.ldaImm 0x0011, [0x22]) := by decide

theorem test_decode_truncated : decode ⟨true, true⟩ [0xAD, 0x11] = .error (.truncated 0xAD) := by decide

theorem test_decode_empty : decode ⟨true, true⟩ [] = .error .noOpcode := by decide

/-! ### Encoding -/

theorem test_encode_long : encode ⟨true, true⟩ (.jsl 0x123456) = [0x22, 0x56, 0x34, 0x12] := by decide

theorem test_encode_imm8 : encode ⟨true, false⟩ (.ldaImm 0x0011) = [0xA9, 0x11] := by decide

theorem test_encode_imm16 : encode ⟨true, false⟩ (.ldxImm 0x2211) = [0xA2, 0x11, 0x22] := by decide

/-! ### WellFormed refuses each ill-formed term: an 8-bit immediate with a high byte -/

theorem test_ill_formed_accumulator : ¬WellFormed ⟨true, false⟩ (.ldaImm 0x0100) := by decide

theorem test_ill_formed_index : ¬WellFormed ⟨false, true⟩ (.ldxImm 0x0100) := by decide

theorem test_well_formed_wide : WellFormed ⟨false, false⟩ (.ldaImm 0x0100) := by decide

/-! ### One step: vectors of 95_test_vectors.md (the spec's own results, worked from its rules) -/

/-- T2: LDA #, 16 bit, 3 bytes: N=1. -/
theorem test_T2_lda : stepTo (mk 0x0000 0x0000 0x0000 0x01FF 0x0000 0x00 0x00 0x8000 0x00 false
    [(0x008000, 0xA9), (0x008001, 0x00), (0x008002, 0x80)]) (fun t => t.c == 0x8000 && t.p == 0x80 && t.pc == 0x8003) = true := by decide

/-- T17: (rule R139) al,x: FF0001+FFFF wraps to 000000 (D3). -/
theorem test_T17_lda : stepTo (mk 0x0000 0xFFFF 0x0000 0x01FF 0x0000 0x00 0x00 0x8000 0x20 false
    [(0x000000, 0x6B), (0x008000, 0xBF), (0x008001, 0x01), (0x008002, 0x00), (0x008003, 0xFF)]) (fun t => t.c == 0x006B && t.pc == 0x8004) = true := by decide

/-- T18: LDX #, 16 bit: Z=1. -/
theorem test_T18_ldx : stepTo (mk 0x0000 0x1234 0x0000 0x01FF 0x0000 0x00 0x00 0x8000 0x20 false
    [(0x008000, 0xA2), (0x008001, 0x00), (0x008002, 0x00)]) (fun t => t.x == 0x0000 && t.p == 0x22 && t.pc == 0x8003) = true := by decide

/-- T19: LDY d,x with X=1: 8-bit, YH stays 00. -/
theorem test_T19_ldy : stepTo (mk 0x0000 0x0005 0x0000 0x01FF 0x0000 0x00 0x00 0x8000 0x10 false
    [(0x000015, 0x80), (0x000016, 0xFF), (0x008000, 0xB4), (0x008001, 0x10)]) (fun t => t.y == 0x0080 && t.p == 0x90 && t.pc == 0x8002) = true := by decide

/-- T21: STA a 8 bit: only A written. -/
theorem test_T21_sta : stepTo (mk 0xBEEF 0x0000 0x0000 0x01FF 0x0000 0x01 0x00 0x8000 0x20 false
    [(0x020000, 0x11), (0x008000, 0x8D), (0x008001, 0xFF), (0x008002, 0xFF)]) (fun t => t.pc == 0x8003 && t.readByte 0x01FFFF == 0xEF) = true := by decide

/-- T22: STA d: 16-bit data wraps in bank 0 (00FFFF, 000000). -/
theorem test_T22_sta : stepTo (mk 0xBEEF 0x0000 0x0000 0x01FF 0xFFFF 0x00 0x00 0x8000 0x00 false
    [(0x008000, 0x85), (0x008001, 0x00)]) (fun t => t.pc == 0x8002 && t.readByte 0x00FFFF == 0xEF && t.readByte 0x000000 == 0xBE) = true := by decide

/-- T23: STX d. -/
theorem test_T23_stx : stepTo (mk 0x0000 0x0080 0x0000 0x01FF 0x0000 0x00 0x00 0x8000 0x30 true
    [(0x008000, 0x86), (0x008001, 0x10)]) (fun t => t.pc == 0x8002 && t.readByte 0x000010 == 0x80) = true := by decide

/-- T24: STY a, X=0: 2 bytes (index width, not M). -/
theorem test_T24_sty : stepTo (mk 0x0000 0x0000 0xA55A 0x01FF 0x0000 0x00 0x00 0x8000 0x20 false
    [(0x008000, 0x8C), (0x008001, 0x00), (0x008002, 0x20)]) (fun t => t.pc == 0x8003 && t.readByte 0x002000 == 0x5A && t.readByte 0x002001 == 0xA5) = true := by decide

/-- T25: STZ a,x 16 bit. -/
theorem test_T25_stz : stepTo (mk 0x0000 0x0001 0x0000 0x01FF 0x0000 0x00 0x00 0x8000 0x00 false
    [(0x002001, 0xAA), (0x002002, 0xBB), (0x008000, 0x9E), (0x008001, 0x00), (0x008002, 0x20)]) (fun t => t.pc == 0x8003 && t.readByte 0x002001 == 0x00 && t.readByte 0x002002 == 0x00) = true := by decide

/-- T26: STZ a 8 bit: one byte. -/
theorem test_T26_stz : stepTo (mk 0x1234 0x0000 0x0000 0x01FF 0x0000 0x00 0x00 0x8000 0x20 false
    [(0x002000, 0xAA), (0x002001, 0xBB), (0x008000, 0x9C), (0x008001, 0x00), (0x008002, 0x20)]) (fun t => t.pc == 0x8003 && t.readByte 0x002000 == 0x00) = true := by decide

/-- T28: ADC: FF+00+1=00, C=1 Z=1 V=0. -/
theorem test_T28_adc : stepTo (mk 0x00FF 0x0000 0x0000 0x01FF 0x0000 0x00 0x00 0x8000 0x31 true
    [(0x008000, 0x69), (0x008001, 0x00)]) (fun t => t.c == 0x0000 && t.p == 0x33 && t.pc == 0x8002) = true := by decide

/-- T32: 8-bit ADC does not carry into B. -/
theorem test_T32_adc : stepTo (mk 0xAB7F 0x0000 0x0000 0x01FF 0x0000 0x00 0x00 0x8000 0x30 true
    [(0x008000, 0x69), (0x008001, 0x01)]) (fun t => t.c == 0xAB80 && t.p == 0xF0 && t.pc == 0x8002) = true := by decide

/-- T34: SBC: 50-B0=A0, V=1 C=0. -/
theorem test_T34_sbc : stepTo (mk 0x0050 0x0000 0x0000 0x01FF 0x0000 0x00 0x00 0x8000 0x31 true
    [(0x008000, 0xE9), (0x008001, 0xB0)]) (fun t => t.c == 0x00A0 && t.p == 0xF0 && t.pc == 0x8002) = true := by decide

/-- T36: SBC 16: 8000-1=7FFF, V=1 C=1. -/
theorem test_T36_sbc : stepTo (mk 0x8000 0x0000 0x0000 0x01FF 0x0000 0x00 0x00 0x8000 0x01 false
    [(0x008000, 0xE9), (0x008001, 0x01), (0x008002, 0x00)]) (fun t => t.c == 0x7FFF && t.p == 0x41 && t.pc == 0x8003) = true := by decide

/-- T43: AND: Z=1. -/
theorem test_T43_and : stepTo (mk 0x12F0 0x0000 0x0000 0x01FF 0x0000 0x00 0x00 0x8000 0x30 true
    [(0x008000, 0x29), (0x008001, 0x0F)]) (fun t => t.c == 0x1200 && t.p == 0x32 && t.pc == 0x8002) = true := by decide

/-- T44: ORA: FF N=1. -/
theorem test_T44_ora : stepTo (mk 0x12F0 0x0000 0x0000 0x01FF 0x0000 0x00 0x00 0x8000 0x30 true
    [(0x008000, 0x09), (0x008001, 0x0F)]) (fun t => t.c == 0x12FF && t.p == 0xB0 && t.pc == 0x8002) = true := by decide

/-- T45: EOR 16: 0000 Z=1. -/
theorem test_T45_eor : stepTo (mk 0xFFFF 0x0000 0x0000 0x01FF 0x0000 0x00 0x00 0x8000 0x00 false
    [(0x008000, 0x49), (0x008001, 0xFF), (0x008002, 0xFF)]) (fun t => t.c == 0x0000 && t.p == 0x02 && t.pc == 0x8003) = true := by decide

/-- T47: CMP less: C=0 N=1; A unchanged; V untouched. -/
theorem test_T47_cmp : stepTo (mk 0x0040 0x0000 0x0000 0x01FF 0x0000 0x00 0x00 0x8000 0x31 true
    [(0x008000, 0xC9), (0x008001, 0x41)]) (fun t => t.p == 0xB0 && t.pc == 0x8002) = true := by decide

/-- T49: CMP 16: 0000-0001=FFFF N=1 C=0. -/
theorem test_T49_cmp : stepTo (mk 0x0000 0x0000 0x0000 0x01FF 0x0000 0x00 0x00 0x8000 0x00 false
    [(0x008000, 0xC9), (0x008001, 0x01), (0x008002, 0x00)]) (fun t => t.p == 0x80 && t.pc == 0x8003) = true := by decide

/-- T50: CPX 16-bit (X=0) with M=1: width from X flag. -/
theorem test_T50_cpx : stepTo (mk 0x0000 0x1000 0x0000 0x01FF 0x0000 0x00 0x00 0x8000 0x20 false
    [(0x008000, 0xE0), (0x008001, 0x00), (0x008002, 0x10)]) (fun t => t.p == 0x23 && t.pc == 0x8003) = true := by decide

/-- T51: CPY 00 vs FF: 01, C=0. -/
theorem test_T51_cpy : stepTo (mk 0x0000 0x0000 0x0000 0x01FF 0x0000 0x00 0x00 0x8000 0x30 true
    [(0x008000, 0xC0), (0x008001, 0xFF)]) (fun t => t.pc == 0x8002) = true := by decide

/-- T53: BIT a 16: V from bit 14, N from bit 15. -/
theorem test_T53_bit : stepTo (mk 0x4000 0x0000 0x0000 0x01FF 0x0000 0x00 0x00 0x8000 0x00 false
    [(0x002000, 0x00), (0x002001, 0x40), (0x008000, 0x2C), (0x008001, 0x00), (0x008002, 0x20)]) (fun t => t.p == 0x40 && t.pc == 0x8003) = true := by decide

/-- T54: BIT #: only Z; N,V kept. -/
theorem test_T54_bit : stepTo (mk 0x0001 0x0000 0x0000 0x01FF 0x0000 0x00 0x00 0x8000 0xF0 true
    [(0x008000, 0x89), (0x008001, 0xC0)]) (fun t => t.p == 0xF2 && t.pc == 0x8002) = true := by decide

/-- T56: DEC A 16: 0000->FFFF. -/
theorem test_T56_dec : stepTo (mk 0x0000 0x0000 0x0000 0x01FF 0x0000 0x00 0x00 0x8000 0x00 false
    [(0x008000, 0x3A)]) (fun t => t.c == 0xFFFF && t.p == 0x80 && t.pc == 0x8001) = true := by decide

/-- T57: INC A 8 bit in native: B kept. -/
theorem test_T57_inc : stepTo (mk 0x12FF 0x0000 0x0000 0x01FF 0x0000 0x00 0x00 0x8000 0x20 false
    [(0x008000, 0x1A)]) (fun t => t.c == 0x1200 && t.p == 0x22 && t.pc == 0x8001) = true := by decide

/-- T58: INX 8 bit wraps to 00, XH stays 00. -/
theorem test_T58_inx : stepTo (mk 0x0000 0x00FF 0x0000 0x01FF 0x0000 0x00 0x00 0x8000 0x30 true
    [(0x008000, 0xE8)]) (fun t => t.x == 0x0000 && t.p == 0x32 && t.pc == 0x8001) = true := by decide

/-- T59: INX 16 bit: 0100. -/
theorem test_T59_inx : stepTo (mk 0x0000 0x00FF 0x0000 0x01FF 0x0000 0x00 0x00 0x8000 0x20 false
    [(0x008000, 0xE8)]) (fun t => t.x == 0x0100 && t.pc == 0x8001) = true := by decide

/-- T60: DEY 16 bit: FFFF. -/
theorem test_T60_dey : stepTo (mk 0x0000 0x0000 0x0000 0x01FF 0x0000 0x00 0x00 0x8000 0x20 false
    [(0x008000, 0x88)]) (fun t => t.y == 0xFFFF && t.p == 0xA0 && t.pc == 0x8001) = true := by decide

/-- T61: DEX 8 bit: FF. -/
theorem test_T61_dex : stepTo (mk 0x0000 0x0000 0x0000 0x01FF 0x0000 0x00 0x00 0x8000 0x30 true
    [(0x008000, 0xCA)]) (fun t => t.x == 0x00FF && t.p == 0xB0 && t.pc == 0x8001) = true := by decide

/-- T62: ASL A 8 bit. -/
theorem test_T62_asl : stepTo (mk 0x1281 0x0000 0x0000 0x01FF 0x0000 0x00 0x00 0x8000 0x30 true
    [(0x008000, 0x0A)]) (fun t => t.c == 0x1202 && t.p == 0x31 && t.pc == 0x8001) = true := by decide

/-- T63: ROL A 16: 8000,C=1 -> 0001,C=1. -/
theorem test_T63_rol : stepTo (mk 0x8000 0x0000 0x0000 0x01FF 0x0000 0x00 0x00 0x8000 0x01 false
    [(0x008000, 0x2A)]) (fun t => t.c == 0x0001 && t.pc == 0x8001) = true := by decide

/-- T64: ROR A 16: 0001,C=1 -> 8000,C=1. -/
theorem test_T64_ror : stepTo (mk 0x0001 0x0000 0x0000 0x01FF 0x0000 0x00 0x00 0x8000 0x01 false
    [(0x008000, 0x6A)]) (fun t => t.c == 0x8000 && t.p == 0x81 && t.pc == 0x8001) = true := by decide

/-- T65: LSR A 16: N cleared. -/
theorem test_T65_lsr : stepTo (mk 0x0001 0x0000 0x0000 0x01FF 0x0000 0x00 0x00 0x8000 0x80 false
    [(0x008000, 0x4A)]) (fun t => t.c == 0x0000 && t.p == 0x03 && t.pc == 0x8001) = true := by decide

/-- T66: (rule R240) INC a 16 bit: read lo, hi; write hi, then lo. -/
theorem test_T66_inc : stepTo (mk 0x0000 0x0000 0x0000 0x01FF 0x0000 0x12 0x00 0x8000 0x00 false
    [(0x12FFFF, 0xFF), (0x130000, 0x00), (0x008000, 0xEE), (0x008001, 0xFF), (0x008002, 0xFF)]) (fun t => t.pc == 0x8003 && t.readByte 0x130000 == 0x01 && t.readByte 0x12FFFF == 0x00) = true := by decide

/-- T67: ASL a 8 bit. -/
theorem test_T67_asl : stepTo (mk 0x0000 0x0000 0x0000 0x01FF 0x0000 0x00 0x00 0x8000 0x20 false
    [(0x002000, 0x80), (0x008000, 0x0E), (0x008001, 0x00), (0x008002, 0x20)]) (fun t => t.p == 0x23 && t.pc == 0x8003 && t.readByte 0x002000 == 0x00) = true := by decide

/-- T68: ROR d,x, E=1 page wrap: operand at 000000. -/
theorem test_T68_ror : stepTo (mk 0x0000 0x0001 0x0000 0x01FF 0x0000 0x00 0x00 0x8000 0x31 true
    [(0x000000, 0x01), (0x008000, 0x76), (0x008001, 0xFF)]) (fun t => t.p == 0xB1 && t.pc == 0x8002 && t.readByte 0x000000 == 0x80) = true := by decide

/-- T69: DEC d 16 bit: 0100 -> 00FF. -/
theorem test_T69_dec : stepTo (mk 0x0000 0x0000 0x0000 0x01FF 0x0000 0x00 0x00 0x8000 0x00 false
    [(0x0000FF, 0x00), (0x000100, 0x01), (0x008000, 0xC6), (0x008001, 0xFF)]) (fun t => t.pc == 0x8002 && t.readByte 0x000100 == 0x00 && t.readByte 0x0000FF == 0xFF) = true := by decide

/-- T70: TSB d: Z from A&M before OR. -/
theorem test_T70_tsb : stepTo (mk 0x000F 0x0000 0x0000 0x01FF 0x0000 0x00 0x00 0x8000 0x30 true
    [(0x000020, 0xF0), (0x008000, 0x04), (0x008001, 0x20)]) (fun t => t.p == 0x32 && t.pc == 0x8002 && t.readByte 0x000020 == 0xFF) = true := by decide

/-- T71: TRB d. -/
theorem test_T71_trb : stepTo (mk 0x000F 0x0000 0x0000 0x01FF 0x0000 0x00 0x00 0x8000 0x30 true
    [(0x000020, 0x3C), (0x008000, 0x14), (0x008001, 0x20)]) (fun t => t.pc == 0x8002 && t.readByte 0x000020 == 0x30) = true := by decide

/-- T72: TSB a 16 bit. -/
theorem test_T72_tsb : stepTo (mk 0x8001 0x0000 0x0000 0x01FF 0x0000 0x00 0x00 0x8000 0x00 false
    [(0x003000, 0x01), (0x003001, 0x00), (0x008000, 0x0C), (0x008001, 0x00), (0x008002, 0x30)]) (fun t => t.pc == 0x8003 && t.readByte 0x003001 == 0x80 && t.readByte 0x003000 == 0x01) = true := by decide

/-- T73: TRB a 16 bit. -/
theorem test_T73_trb : stepTo (mk 0xFF00 0x0000 0x0000 0x01FF 0x0000 0x00 0x00 0x8000 0x02 false
    [(0x003000, 0x34), (0x003001, 0x12), (0x008000, 0x1C), (0x008001, 0x00), (0x008002, 0x30)]) (fun t => t.p == 0x00 && t.pc == 0x8003 && t.readByte 0x003001 == 0x00 && t.readByte 0x003000 == 0x34) = true := by decide

/-- T74: TAX, M=1 X=0: all 16 bits of C, B into XH. -/
theorem test_T74_tax : stepTo (mk 0x1234 0xFFFF 0x0000 0x01FF 0x0000 0x00 0x00 0x8000 0x20 false
    [(0x008000, 0xAA)]) (fun t => t.x == 0x1234 && t.pc == 0x8001) = true := by decide

/-- T75: TAX, X=1: only low byte, N from bit 7. -/
theorem test_T75_tax : stepTo (mk 0x1280 0x0000 0x0000 0x01FF 0x0000 0x00 0x00 0x8000 0x10 false
    [(0x008000, 0xAA)]) (fun t => t.x == 0x0080 && t.p == 0x90 && t.pc == 0x8001) = true := by decide

/-- T76: TXA, M=0 X=1: C = 00:XL. -/
theorem test_T76_txa : stepTo (mk 0x1234 0x0080 0x0000 0x01FF 0x0000 0x00 0x00 0x8000 0x10 false
    [(0x008000, 0x8A)]) (fun t => t.c == 0x0080 && t.pc == 0x8001) = true := by decide

/-- T77: TXA, M=1 X=0: A=XL, B kept; Z from 8 bits. -/
theorem test_T77_txa : stepTo (mk 0x1234 0xAB00 0x0000 0x01FF 0x0000 0x00 0x00 0x8000 0x20 false
    [(0x008000, 0x8A)]) (fun t => t.c == 0x1200 && t.p == 0x22 && t.pc == 0x8001) = true := by decide

/-- T78: TYA, M=1: A=00 Z=1. -/
theorem test_T78_tya : stepTo (mk 0x0000 0x0000 0x8000 0x01FF 0x0000 0x00 0x00 0x8000 0x20 false
    [(0x008000, 0x98)]) (fun t => t.p == 0x22 && t.pc == 0x8001) = true := by decide

/-- T79: TAY 16. -/
theorem test_T79_tay : stepTo (mk 0xFFFF 0x0000 0x0000 0x01FF 0x0000 0x00 0x00 0x8000 0x00 false
    [(0x008000, 0xA8)]) (fun t => t.y == 0xFFFF && t.p == 0x80 && t.pc == 0x8001) = true := by decide

/-- T80: TSX E=1: XL=SL, XH=00. -/
theorem test_T80_tsx : stepTo (mk 0x0000 0x0000 0x0000 0x0180 0x0000 0x00 0x00 0x8000 0x30 true
    [(0x008000, 0xBA)]) (fun t => t.x == 0x0080 && t.p == 0xB0 && t.pc == 0x8001) = true := by decide

/-- T81: TSX 16: N=1. -/
theorem test_T81_tsx : stepTo (mk 0x0000 0x0000 0x0000 0x8000 0x0000 0x00 0x00 0x8000 0x00 false
    [(0x008000, 0xBA)]) (fun t => t.x == 0x8000 && t.p == 0x80 && t.pc == 0x8001) = true := by decide

/-- T83: TXS native, X=1: S=0040 (XH=00). -/
theorem test_T83_txs : stepTo (mk 0x0000 0x0040 0x0000 0x1FFF 0x0000 0x00 0x00 0x8000 0x10 false
    [(0x008000, 0x9A)]) (fun t => t.sp == 0x0040 && t.pc == 0x8001) = true := by decide

/-- T84: TXS native 16. -/
theorem test_T84_txs : stepTo (mk 0x0000 0x2FFF 0x0000 0x01FF 0x0000 0x00 0x00 0x8000 0x00 false
    [(0x008000, 0x9A)]) (fun t => t.sp == 0x2FFF && t.pc == 0x8001) = true := by decide

/-- T85: TXY. -/
theorem test_T85_txy : stepTo (mk 0x0000 0x0012 0x0000 0x01FF 0x0000 0x00 0x00 0x8000 0x10 false
    [(0x008000, 0x9B)]) (fun t => t.y == 0x0012 && t.pc == 0x8001) = true := by decide

/-- T86: TYX 16: Z=1. -/
theorem test_T86_tyx : stepTo (mk 0x0000 0x0012 0x0000 0x01FF 0x0000 0x00 0x00 0x8000 0x00 false
    [(0x008000, 0xBB)]) (fun t => t.x == 0x0000 && t.p == 0x02 && t.pc == 0x8001) = true := by decide

/-- T87: TCD: 16 bits whatever M; N=1. -/
theorem test_T87_tcd : stepTo (mk 0x8000 0x0000 0x0000 0x01FF 0x0000 0x00 0x00 0x8000 0x30 false
    [(0x008000, 0x5B)]) (fun t => t.d == 0x8000 && t.p == 0xB0 && t.pc == 0x8001) = true := by decide

/-- T88: TDC: C=0000 Z=1 (16-bit flags with M=1). -/
theorem test_T88_tdc : stepTo (mk 0x1234 0x0000 0x0000 0x01FF 0x0000 0x00 0x00 0x8000 0x30 true
    [(0x008000, 0x7B)]) (fun t => t.c == 0x0000 && t.p == 0x32 && t.pc == 0x8001) = true := by decide

/-- T89: TCS E=1: SH forced 01; no flags. -/
theorem test_T89_tcs : stepTo (mk 0x1234 0x0000 0x0000 0x01FF 0x0000 0x00 0x00 0x8000 0x30 true
    [(0x008000, 0x1B)]) (fun t => t.sp == 0x0134 && t.pc == 0x8001) = true := by decide

/-- T90: TCS native: S=C. -/
theorem test_T90_tcs : stepTo (mk 0x1234 0x0000 0x0000 0x01FF 0x0000 0x00 0x00 0x8000 0x30 false
    [(0x008000, 0x1B)]) (fun t => t.sp == 0x1234 && t.pc == 0x8001) = true := by decide

/-- T91: TSC E=1: C=01FF (all 16 bits, M=1). -/
theorem test_T91_tsc : stepTo (mk 0x0000 0x0000 0x0000 0x01FF 0x0000 0x00 0x00 0x8000 0x30 true
    [(0x008000, 0x3B)]) (fun t => t.c == 0x01FF && t.pc == 0x8001) = true := by decide

/-- T92: XBA: flags from new A (80): N=1. -/
theorem test_T92_xba : stepTo (mk 0x8012 0x0000 0x0000 0x01FF 0x0000 0x00 0x00 0x8000 0x30 true
    [(0x008000, 0xEB)]) (fun t => t.c == 0x1280 && t.p == 0xB0 && t.pc == 0x8001) = true := by decide

/-- T93: XBA, M=0: flags still from new low byte (00): Z=1. -/
theorem test_T93_xba : stepTo (mk 0x0012 0x0000 0x0000 0x01FF 0x0000 0x00 0x00 0x8000 0x00 false
    [(0x008000, 0xEB)]) (fun t => t.c == 0x1200 && t.p == 0x02 && t.pc == 0x8001) = true := by decide

/-- T95: XCE with C=1: to emulation; M=X=1, SH=01, XH=YH=00, carry <- 0. -/
theorem test_T95_xce : stepTo (mk 0xABCD 0x1234 0x5678 0x2FF0 0x0000 0x00 0x00 0x8000 0x01 false
    [(0x008000, 0xFB)]) (fun t => t.x == 0x0034 && t.y == 0x0078 && t.sp == 0x01F0 && t.e == true && t.p == 0x30 && t.pc == 0x8001) = true := by decide

/-- T97: XCE, E=0,C=0: stays native; nothing changes. -/
theorem test_T97_xce : stepTo (mk 0x0000 0x1234 0x0000 0x01FF 0x0000 0x00 0x00 0x8000 0x00 false
    [(0x008000, 0xFB)]) (fun t => t.pc == 0x8001) = true := by decide

/-- T98: PHA E=1: S wraps 0100 -> 01FF. -/
theorem test_T98_pha : stepTo (mk 0x12AB 0x0000 0x0000 0x0100 0x0000 0x00 0x00 0x8000 0x30 true
    [(0x008000, 0x48)]) (fun t => t.sp == 0x01FF && t.pc == 0x8001 && t.readByte 0x000100 == 0xAB) = true := by decide

/-- T99: PHA 16 native: high first, S crosses page. -/
theorem test_T99_pha : stepTo (mk 0x12AB 0x0000 0x0000 0x0100 0x0000 0x00 0x00 0x8000 0x00 false
    [(0x008000, 0x48)]) (fun t => t.sp == 0x00FE && t.pc == 0x8001 && t.readByte 0x000100 == 0x12 && t.readByte 0x0000FF == 0xAB) = true := by decide

/-- T100: PLA E=1: pulls from 000100 (wrap), N=1, B kept. -/
theorem test_T100_pla : stepTo (mk 0xFF00 0x0000 0x0000 0x01FF 0x0000 0x00 0x00 0x8000 0x30 true
    [(0x000100, 0x80), (0x008000, 0x68)]) (fun t => t.c == 0xFF80 && t.sp == 0x0100 && t.p == 0xB0 && t.pc == 0x8001) = true := by decide

/-- T101: PLA 16: Z=1. -/
theorem test_T101_pla : stepTo (mk 0x0000 0x0000 0x0000 0x1FFD 0x0000 0x00 0x00 0x8000 0x00 false
    [(0x001FFE, 0x00), (0x001FFF, 0x00), (0x008000, 0x68)]) (fun t => t.sp == 0x1FFF && t.p == 0x02 && t.pc == 0x8001) = true := by decide

/-- T102: PHX: width from X flag. -/
theorem test_T102_phx : stepTo (mk 0x0000 0xBEEF 0x0000 0x1FFF 0x0000 0x00 0x00 0x8000 0x20 false
    [(0x008000, 0xDA)]) (fun t => t.sp == 0x1FFD && t.pc == 0x8001 && t.readByte 0x001FFF == 0xBE && t.readByte 0x001FFE == 0xEF) = true := by decide

/-- T103: PLY 8 bit. -/
theorem test_T103_ply : stepTo (mk 0x0000 0x0000 0x0000 0x1FFE 0x0000 0x00 0x00 0x8000 0x10 false
    [(0x001FFF, 0x80), (0x008000, 0x7A)]) (fun t => t.y == 0x0080 && t.sp == 0x1FFF && t.p == 0x90 && t.pc == 0x8001) = true := by decide

/-- T104: PHB. -/
theorem test_T104_phb : stepTo (mk 0x0000 0x0000 0x0000 0x1FFF 0x0000 0x7E 0x00 0x8000 0x30 false
    [(0x008000, 0x8B)]) (fun t => t.sp == 0x1FFE && t.pc == 0x8001 && t.readByte 0x001FFF == 0x7E) = true := by decide

/-- T105: PLB: N=1, always 8 bit. -/
theorem test_T105_plb : stepTo (mk 0x0000 0x0000 0x0000 0x1FFE 0x0000 0x00 0x00 0x8000 0x30 false
    [(0x001FFF, 0x80), (0x008000, 0xAB)]) (fun t => t.sp == 0x1FFF && t.dbr == 0x80 && t.p == 0xB0 && t.pc == 0x8001) = true := by decide

/-- T106: PHK. -/
theorem test_T106_phk : stepTo (mk 0x0000 0x0000 0x0000 0x1FFF 0x0000 0x00 0x12 0x8000 0x30 false
    [(0x128000, 0x4B)]) (fun t => t.sp == 0x1FFE && t.pc == 0x8001 && t.readByte 0x001FFF == 0x12) = true := by decide

/-- T107: PHD. -/
theorem test_T107_phd : stepTo (mk 0x0000 0x0000 0x0000 0x1FFF 0x1234 0x00 0x00 0x8000 0x00 false
    [(0x008000, 0x0B)]) (fun t => t.sp == 0x1FFD && t.pc == 0x8001 && t.readByte 0x001FFF == 0x12 && t.readByte 0x001FFE == 0x34) = true := by decide

/-- T108: PHD E=1 at S=0100: second byte at 0000FF (leaves page 1), then SH<-01. -/
theorem test_T108_phd : stepTo (mk 0x0000 0x0000 0x0000 0x0100 0x1234 0x00 0x00 0x8000 0x30 true
    [(0x008000, 0x0B)]) (fun t => t.sp == 0x01FE && t.pc == 0x8001 && t.readByte 0x000100 == 0x12 && t.readByte 0x0000FF == 0x34) = true := by decide

/-- T109: PLD E=1 at S=01FF: reads 000200, 000201; then SH<-01. -/
theorem test_T109_pld : stepTo (mk 0x0000 0x0000 0x0000 0x01FF 0x0000 0x00 0x00 0x8000 0x30 true
    [(0x000200, 0x34), (0x000201, 0x12), (0x008000, 0x2B)]) (fun t => t.sp == 0x0101 && t.d == 0x1234 && t.pc == 0x8001) = true := by decide

/-- T110: PLD: Z=1 at 16 bits. -/
theorem test_T110_pld : stepTo (mk 0x0000 0x0000 0x0000 0x1FFD 0xFFFF 0x00 0x00 0x8000 0x30 false
    [(0x001FFE, 0x00), (0x001FFF, 0x00), (0x008000, 0x2B)]) (fun t => t.sp == 0x1FFF && t.d == 0x0000 && t.p == 0x32 && t.pc == 0x8001) = true := by decide

/-- T111: PHP E=1: bits 5,4 pushed as 1. -/
theorem test_T111_php : stepTo (mk 0x0000 0x0000 0x0000 0x01FF 0x0000 0x00 0x00 0x8000 0x30 true
    [(0x008000, 0x08)]) (fun t => t.sp == 0x01FE && t.pc == 0x8001 && t.readByte 0x0001FF == 0x30) = true := by decide

/-- T112: PHP native: P as it is. -/
theorem test_T112_php : stepTo (mk 0x0000 0x0000 0x0000 0x01FF 0x0000 0x00 0x00 0x8000 0xCF false
    [(0x008000, 0x08)]) (fun t => t.sp == 0x01FE && t.pc == 0x8001 && t.readByte 0x0001FF == 0xCF) = true := by decide

/-- T113: PLP E=1: bits 5,4 stay 1. -/
theorem test_T113_plp : stepTo (mk 0x0000 0x0000 0x0000 0x01FE 0x0000 0x00 0x00 0x8000 0x30 true
    [(0x0001FF, 0xCF), (0x008000, 0x28)]) (fun t => t.sp == 0x01FF && t.p == 0xFF && t.pc == 0x8001) = true := by decide

/-- T114: PLP sets X: XH,YH cleared. -/
theorem test_T114_plp : stepTo (mk 0x0000 0x1234 0x5678 0x01FE 0x0000 0x00 0x00 0x8000 0x00 false
    [(0x0001FF, 0x10), (0x008000, 0x28)]) (fun t => t.x == 0x0034 && t.y == 0x0078 && t.sp == 0x01FF && t.p == 0x10 && t.pc == 0x8001) = true := by decide

/-- T115: PEA: pushes 12 then 34; no flags. -/
theorem test_T115_pea : stepTo (mk 0x0000 0x0000 0x0000 0x1FFF 0x0000 0x00 0x00 0x8000 0x30 false
    [(0x008000, 0xF4), (0x008001, 0x34), (0x008002, 0x12)]) (fun t => t.sp == 0x1FFD && t.pc == 0x8003 && t.readByte 0x001FFF == 0x12 && t.readByte 0x001FFE == 0x34) = true := by decide

/-- T116: PEI. -/
theorem test_T116_pei : stepTo (mk 0x0000 0x0000 0x0000 0x1FFF 0x0010 0x00 0x00 0x8000 0x30 false
    [(0x000030, 0xCD), (0x000031, 0xAB), (0x008000, 0xD4), (0x008001, 0x20)]) (fun t => t.sp == 0x1FFD && t.pc == 0x8002 && t.readByte 0x001FFF == 0xAB && t.readByte 0x001FFE == 0xCD) = true := by decide

/-- T117: PEI E=1: pointer high byte from 000100 (no page wrap). -/
theorem test_T117_pei : stepTo (mk 0x0000 0x0000 0x0000 0x01FF 0x0000 0x00 0x00 0x8000 0x30 true
    [(0x0000FF, 0xCD), (0x000100, 0xAB), (0x000000, 0x99), (0x008000, 0xD4), (0x008001, 0xFF)]) (fun t => t.sp == 0x01FD && t.pc == 0x8002 && t.readByte 0x0001FF == 0xAB && t.readByte 0x0001FE == 0xCD) = true := by decide

/-- T118: PER: 8000+3-3 = 8000. -/
theorem test_T118_per : stepTo (mk 0x0000 0x0000 0x0000 0x1FFF 0x0000 0x00 0x00 0x8000 0x30 false
    [(0x008000, 0x62), (0x008001, 0xFD), (0x008002, 0xFF)]) (fun t => t.sp == 0x1FFD && t.pc == 0x8003 && t.readByte 0x001FFF == 0x80 && t.readByte 0x001FFE == 0x00) = true := by decide

/-- T119: PER: FFF0+3+20 wraps to 0013. -/
theorem test_T119_per : stepTo (mk 0x0000 0x0000 0x0000 0x1FFF 0x0000 0x00 0x00 0xFFF0 0x30 false
    [(0x00FFF0, 0x62), (0x00FFF1, 0x20), (0x00FFF2, 0x00)]) (fun t => t.sp == 0x1FFD && t.pc == 0xFFF3 && t.readByte 0x001FFF == 0x00 && t.readByte 0x001FFE == 0x13) = true := by decide

/-- T120: CLC. -/
theorem test_T120_clc : stepTo (mk 0x0000 0x0000 0x0000 0x01FF 0x0000 0x00 0x00 0x8000 0xFF true
    [(0x008000, 0x18)]) (fun t => t.p == 0xFE && t.pc == 0x8001) = true := by decide

/-- T121: SEC. -/
theorem test_T121_sec : stepTo (mk 0x0000 0x0000 0x0000 0x01FF 0x0000 0x00 0x00 0x8000 0x30 true
    [(0x008000, 0x38)]) (fun t => t.p == 0x31 && t.pc == 0x8001) = true := by decide

/-- T122: CLD. -/
theorem test_T122_cld : stepTo (mk 0x0000 0x0000 0x0000 0x01FF 0x0000 0x00 0x00 0x8000 0xFF true
    [(0x008000, 0xD8)]) (fun t => t.p == 0xF7 && t.pc == 0x8001) = true := by decide

/-- T123: SED. -/
theorem test_T123_sed : stepTo (mk 0x0000 0x0000 0x0000 0x01FF 0x0000 0x00 0x00 0x8000 0x30 true
    [(0x008000, 0xF8)]) (fun t => t.p == 0x38 && t.pc == 0x8001) = true := by decide

/-- T124: CLI. -/
theorem test_T124_cli : stepTo (mk 0x0000 0x0000 0x0000 0x01FF 0x0000 0x00 0x00 0x8000 0xFF true
    [(0x008000, 0x58)]) (fun t => t.p == 0xFB && t.pc == 0x8001) = true := by decide

/-- T125: SEI. -/
theorem test_T125_sei : stepTo (mk 0x0000 0x0000 0x0000 0x01FF 0x0000 0x00 0x00 0x8000 0x30 true
    [(0x008000, 0x78)]) (fun t => t.p == 0x34 && t.pc == 0x8001) = true := by decide

/-- T126: CLV. -/
theorem test_T126_clv : stepTo (mk 0x0000 0x0000 0x0000 0x01FF 0x0000 0x00 0x00 0x8000 0xFF true
    [(0x008000, 0xB8)]) (fun t => t.p == 0xBF && t.pc == 0x8001) = true := by decide

/-- T127: REP #30 native: M=X=0. -/
theorem test_T127_rep : stepTo (mk 0x0000 0x0012 0x0034 0x01FF 0x0000 0x00 0x00 0x8000 0xFF false
    [(0x008000, 0xC2), (0x008001, 0x30)]) (fun t => t.p == 0xCF && t.pc == 0x8002) = true := by decide

/-- T128: REP #FF in emulation: bits 5,4 stay 1. -/
theorem test_T128_rep : stepTo (mk 0x0000 0x0000 0x0000 0x01FF 0x0000 0x00 0x00 0x8000 0xFF true
    [(0x008000, 0xC2), (0x008001, 0xFF)]) (fun t => t.p == 0x30 && t.pc == 0x8002) = true := by decide

/-- T130: SEP #20: B kept (DS 8.23). -/
theorem test_T130_sep : stepTo (mk 0x1234 0x0000 0x0000 0x01FF 0x0000 0x00 0x00 0x8000 0x00 false
    [(0x008000, 0xE2), (0x008001, 0x20)]) (fun t => t.p == 0x20 && t.pc == 0x8002) = true := by decide

/-- T131: SEP #00: nothing changes. -/
theorem test_T131_sep : stepTo (mk 0x0000 0x0000 0x0000 0x01FF 0x0000 0x00 0x00 0x8000 0x00 false
    [(0x008000, 0xE2), (0x008001, 0x00)]) (fun t => t.pc == 0x8002) = true := by decide

/-- T132: BCC taken: 1000+2+10. -/
theorem test_T132_bcc : stepTo (mk 0x0000 0x0000 0x0000 0x01FF 0x0000 0x00 0x00 0x1000 0x30 true
    [(0x001000, 0x90), (0x001001, 0x10)]) (fun t => t.pc == 0x1012) = true := by decide

/-- T133: BCC not taken. -/
theorem test_T133_bcc : stepTo (mk 0x0000 0x0000 0x0000 0x01FF 0x0000 0x00 0x00 0x1000 0x31 true
    [(0x001000, 0x90), (0x001001, 0x10)]) (fun t => t.pc == 0x1002) = true := by decide

/-- T134: BCS to itself. -/
theorem test_T134_bcs : stepTo (mk 0x0000 0x0000 0x0000 0x01FF 0x0000 0x00 0x00 0x1000 0x31 true
    [(0x001000, 0xB0), (0x001001, 0xFE)]) (fun t => t.pc == 0x1000) = true := by decide

/-- T135: BEQ, offset -128: 1002-80 = 0F82. -/
theorem test_T135_beq : stepTo (mk 0x0000 0x0000 0x0000 0x01FF 0x0000 0x00 0x00 0x1000 0x32 true
    [(0x001000, 0xF0), (0x001001, 0x80)]) (fun t => t.pc == 0x0F82) = true := by decide

/-- T136: BNE, +127: 1081. -/
theorem test_T136_bne : stepTo (mk 0x0000 0x0000 0x0000 0x01FF 0x0000 0x00 0x00 0x1000 0x30 true
    [(0x001000, 0xD0), (0x001001, 0x7F)]) (fun t => t.pc == 0x1081) = true := by decide

/-- T137: BMI taken. -/
theorem test_T137_bmi : stepTo (mk 0x0000 0x0000 0x0000 0x01FF 0x0000 0x00 0x00 0x1000 0xB0 true
    [(0x001000, 0x30), (0x001001, 0x02)]) (fun t => t.pc == 0x1004) = true := by decide

/-- T138: BPL not taken. -/
theorem test_T138_bpl : stepTo (mk 0x0000 0x0000 0x0000 0x01FF 0x0000 0x00 0x00 0x1000 0xB0 true
    [(0x001000, 0x10), (0x001001, 0x02)]) (fun t => t.pc == 0x1002) = true := by decide

/-- T139: BVC not taken. -/
theorem test_T139_bvc : stepTo (mk 0x0000 0x0000 0x0000 0x01FF 0x0000 0x00 0x00 0x1000 0x70 true
    [(0x001000, 0x50), (0x001001, 0x02)]) (fun t => t.pc == 0x1002) = true := by decide

/-- T140: BVS taken. -/
theorem test_T140_bvs : stepTo (mk 0x0000 0x0000 0x0000 0x01FF 0x0000 0x00 0x00 0x1000 0x70 true
    [(0x001000, 0x70), (0x001001, 0x02)]) (fun t => t.pc == 0x1004) = true := by decide

/-- T141: BRA: wraps inside bank 01. -/
theorem test_T141_bra : stepTo (mk 0x0000 0x0000 0x0000 0x01FF 0x0000 0x00 0x01 0xFFFE 0x30 false
    [(0x01FFFE, 0x80), (0x01FFFF, 0x00)]) (fun t => t.pc == 0x0000) = true := by decide

/-- T142: BRA backwards across 0000: 0002-4 = FFFE, PBR same. -/
theorem test_T142_bra : stepTo (mk 0x0000 0x0000 0x0000 0x01FF 0x0000 0x00 0x01 0x0000 0x30 false
    [(0x010000, 0x80), (0x010001, 0xFC)]) (fun t => t.pc == 0xFFFE) = true := by decide

/-- T143: BRL: 8003+8000 = 0003. -/
theorem test_T143_brl : stepTo (mk 0x0000 0x0000 0x0000 0x01FF 0x0000 0x00 0x00 0x8000 0x30 false
    [(0x008000, 0x82), (0x008001, 0x00), (0x008002, 0x80)]) (fun t => t.pc == 0x0003) = true := by decide

/-- T145: JMP al. -/
theorem test_T145_jmp : stepTo (mk 0x0000 0x0000 0x0000 0x01FF 0x0000 0x00 0x05 0x8000 0x30 false
    [(0x058000, 0x5C), (0x058001, 0x34), (0x058002, 0x12), (0x058003, 0x7E)]) (fun t => t.pbr == 0x7E && t.pc == 0x1234) = true := by decide

/-- T147: JMP (a,x): pointer in PBR, wraps at 16 bits. -/
theorem test_T147_jmp : stepTo (mk 0x0000 0x0002 0x0000 0x01FF 0x0000 0x00 0x05 0x8000 0x30 false
    [(0x050001, 0x34), (0x050002, 0x12), (0x000001, 0x99), (0x000002, 0x99), (0x058000, 0x7C), (0x058001, 0xFF), (0x058002, 0xFF)]) (fun t => t.pc == 0x1234) = true := by decide

/-- T148: JML (a). -/
theorem test_T148_jml : stepTo (mk 0x0000 0x0000 0x0000 0x01FF 0x0000 0x00 0x05 0x8000 0x30 false
    [(0x002000, 0x34), (0x002001, 0x12), (0x002002, 0x7E), (0x058000, 0xDC), (0x058001, 0x00), (0x058002, 0x20)]) (fun t => t.pbr == 0x7E && t.pc == 0x1234) = true := by decide

/-- T150: JSR a E=1, S=0100: second push at 0001FF (page wrap). -/
theorem test_T150_jsr : stepTo (mk 0x0000 0x0000 0x0000 0x0100 0x0000 0x00 0x00 0x8000 0x30 true
    [(0x008000, 0x20), (0x008001, 0x34), (0x008002, 0x12)]) (fun t => t.sp == 0x01FE && t.pc == 0x1234 && t.readByte 0x000100 == 0x80 && t.readByte 0x0001FF == 0x02) = true := by decide

/-- T151: JSR (a,x). -/
theorem test_T151_jsr : stepTo (mk 0x0000 0x0004 0x0000 0x1FFF 0x0000 0x00 0x05 0x8000 0x30 false
    [(0x059004, 0x00), (0x059005, 0xA0), (0x058000, 0xFC), (0x058001, 0x00), (0x058002, 0x90)]) (fun t => t.sp == 0x1FFD && t.pc == 0xA000 && t.readByte 0x001FFF == 0x80 && t.readByte 0x001FFE == 0x02) = true := by decide

/-- T152: JSL: pushes PBR, then 8003. -/
theorem test_T152_jsl : stepTo (mk 0x0000 0x0000 0x0000 0x1FFF 0x0000 0x00 0x05 0x8000 0x30 false
    [(0x058000, 0x22), (0x058001, 0x34), (0x058002, 0x12), (0x058003, 0x7E)]) (fun t => t.sp == 0x1FFC && t.pbr == 0x7E && t.pc == 0x1234 && t.readByte 0x001FFE == 0x80 && t.readByte 0x001FFD == 0x03) = true := by decide

/-- T153: JSL E=1, S=0101: third byte at 0000FF; S=01FE after. -/
theorem test_T153_jsl : stepTo (mk 0x0000 0x0000 0x0000 0x0101 0x0000 0x00 0x00 0x8000 0x30 true
    [(0x008000, 0x22), (0x008001, 0x34), (0x008002, 0x12), (0x008003, 0x7E)]) (fun t => t.sp == 0x01FE && t.pbr == 0x7E && t.pc == 0x1234 && t.readByte 0x000100 == 0x80 && t.readByte 0x0000FF == 0x03) = true := by decide

/-- T154: RTS: 8002+1. -/
theorem test_T154_rts : stepTo (mk 0x0000 0x0000 0x0000 0x01FD 0x0000 0x00 0x00 0x9000 0x30 true
    [(0x0001FE, 0x02), (0x0001FF, 0x80), (0x009000, 0x60)]) (fun t => t.sp == 0x01FF && t.pc == 0x8003) = true := by decide

/-- T155: RTS: FFFF+1 wraps to 0000. -/
theorem test_T155_rts : stepTo (mk 0x0000 0x0000 0x0000 0x1FFD 0x0000 0x00 0x00 0x9000 0x30 false
    [(0x001FFE, 0xFF), (0x001FFF, 0xFF), (0x009000, 0x60)]) (fun t => t.sp == 0x1FFF && t.pc == 0x0000) = true := by decide

/-- T156: RTL. -/
theorem test_T156_rtl : stepTo (mk 0x0000 0x0000 0x0000 0x1FFC 0x0000 0x00 0x7E 0x9000 0x30 false
    [(0x001FFD, 0x03), (0x001FFE, 0x80), (0x001FFF, 0x05), (0x7E9000, 0x6B)]) (fun t => t.sp == 0x1FFF && t.pbr == 0x05 && t.pc == 0x8004) = true := by decide

/-- T157: RTL E=1, S=01FE: reads 0001FF, 000200, 000201; S=0101 after. -/
theorem test_T157_rtl : stepTo (mk 0x0000 0x0000 0x0000 0x01FE 0x0000 0x00 0x7E 0x9000 0x30 true
    [(0x0001FF, 0x03), (0x000200, 0x80), (0x000201, 0x05), (0x7E9000, 0x6B)]) (fun t => t.sp == 0x0101 && t.pbr == 0x05 && t.pc == 0x8004) = true := by decide

/-- T161: (rule R320) C=0000 moves one byte; X,Y wrap to 0000. -/
theorem test_T161_mvn : stepTo (mk 0x0000 0xFFFF 0xFFFF 0x01FF 0x0000 0x00 0x00 0x8000 0x00 false
    [(0x01FFFF, 0x5A), (0x008000, 0x54), (0x008001, 0x02), (0x008002, 0x01)]) (fun t => t.c == 0xFFFF && t.x == 0x0000 && t.y == 0x0000 && t.dbr == 0x02 && t.pc == 0x8003 && t.readByte 0x02FFFF == 0x5A) = true := by decide

/-- T163: (rule R320) M=1: C still counts 16 bits (0100 -> 00FF). -/
theorem test_T163_mvn : stepTo (mk 0x0100 0x0000 0x0000 0x01FF 0x0000 0x00 0x00 0x8000 0x20 false
    [(0x008000, 0x54), (0x008001, 0x00), (0x008002, 0x00)]) (fun t => t.c == 0x00FF && t.x == 0x0001 && t.y == 0x0001 && t.readByte 0x000000 == 0x00) = true := by decide

/-- T164: BRK E=1. -/
theorem test_T164_brk : stepTo (mk 0x0000 0x0000 0x0000 0x01FF 0x0000 0x00 0x00 0x8000 0x30 true
    [(0x00FFFE, 0x00), (0x00FFFF, 0x90), (0x008000, 0x00), (0x008001, 0xEA)]) (fun t => t.sp == 0x01FC && t.p == 0x34 && t.pc == 0x9000 && t.readByte 0x0001FE == 0x02 && t.readByte 0x0001FD == 0x30) = true := by decide

/-- T165: BRK native: D cleared, I set, PBR stacked. -/
theorem test_T165_brk : stepTo (mk 0x0000 0x0000 0x0000 0x01FF 0x0000 0x00 0x01 0x8000 0x09 false
    [(0x00FFE6, 0x00), (0x00FFE7, 0xA0), (0x018000, 0x00), (0x018001, 0x55)]) (fun t => t.sp == 0x01FB && t.pbr == 0x00 && t.p == 0x05 && t.pc == 0xA000 && t.readByte 0x0001FD == 0x02 && t.readByte 0x0001FC == 0x09) = true := by decide

/-- T166: COP native. -/
theorem test_T166_cop : stepTo (mk 0x0000 0x0000 0x0000 0x1FFF 0x0000 0x00 0x12 0x4000 0x04 false
    [(0x00FFE4, 0x00), (0x00FFE5, 0xA0), (0x124000, 0x02), (0x124001, 0x10)]) (fun t => t.sp == 0x1FFB && t.pbr == 0x00 && t.pc == 0xA000 && t.readByte 0x001FFD == 0x02 && t.readByte 0x001FFC == 0x04) = true := by decide

/-- T167: COP E=1: page-1 wrap, DBR<-00. -/
theorem test_T167_cop : stepTo (mk 0x0000 0x0000 0x0000 0x0101 0x0000 0x44 0x00 0x8000 0x31 true
    [(0x00FFF4, 0x00), (0x00FFF5, 0xB0), (0x008000, 0x02), (0x008001, 0x01)]) (fun t => t.sp == 0x01FE && t.dbr == 0x00 && t.p == 0x35 && t.pc == 0xB000 && t.readByte 0x000100 == 0x02 && t.readByte 0x0001FF == 0x31) = true := by decide

/-- T168: RTI native. -/
theorem test_T168_rti : stepTo (mk 0x0000 0x0000 0x0000 0x1FFB 0x0000 0x00 0x00 0x9000 0x30 false
    [(0x001FFC, 0x04), (0x001FFD, 0x02), (0x001FFE, 0x40), (0x001FFF, 0x12), (0x009000, 0x40)]) (fun t => t.sp == 0x1FFF && t.pbr == 0x12 && t.p == 0x04 && t.pc == 0x4002) = true := by decide

/-- T169: RTI E=1: bits 5,4 stay 1; 3 bytes. -/
theorem test_T169_rti : stepTo (mk 0x0000 0x0000 0x0000 0x01FC 0x0000 0x00 0x00 0x9000 0x34 true
    [(0x0001FD, 0x00), (0x0001FE, 0x02), (0x0001FF, 0x80), (0x009000, 0x40)]) (fun t => t.sp == 0x01FF && t.p == 0x30 && t.pc == 0x8002) = true := by decide

/-! ### One step of the mnemonics without a vector, by hand from their rules -/

theorem test_iny_wraps : ((after .iny { narrow with y := 0x00FF }).y, (after .iny { narrow with y := 0x00FF }).fZ) =
    (0x0000, true) := by decide

theorem test_mvp_last_byte : (let t := after (.mvp 0x02 0x01) { wide with c := 0x0000, x := 0x0000, y := 0x0010 }
    (t.c, t.x, t.y, t.dbr, t.pc)) = (0xFFFF, 0xFFFF, 0x000F, 0x02, 0x8003) := by decide

theorem test_nop : (after .nop wide).pc = 0x8001 := by decide

theorem test_wdm : (after (.wdm 0x99) wide).pc = 0x8002 := by decide

theorem test_phy_wide : (let t := after .phy wide
    (t.sp, t.readByte 0x0001FF, t.readByte 0x0001FE)) = (0x01FD, 0x9A, 0xBC) := by decide

theorem test_plx_narrow_page1 : (let t := after .plx { emu with mem := [(0x000100, 0x80)] }
    (t.sp, t.x, t.fN)) = (0x0100, 0x0080, true) := by decide

theorem test_stp : (after .stp wide).stopped = true := by decide

theorem test_wai_rdy_forced : ((after .wai wide).waiting,
    (after .wai { wide with pins := { Pins.idle with rdyForcedHigh := true } }).waiting) = (true, false) := by decide

/-! ### Interrupts, waiting, abort and reset -/

/-- The native vectors for IRQ, NMI and ABORT lead to 1111, 2222 and 3333, the emulation ones to 4444, 5555, 6666. -/
def vectors : List (Nat × Byte) :=
  [(0xFFEE, 0x11), (0xFFEF, 0x11), (0xFFEA, 0x22), (0xFFEB, 0x22), (0xFFE8, 0x33), (0xFFE9, 0x33),
    (0xFFFE, 0x44), (0xFFFF, 0x44), (0xFFFA, 0x55), (0xFFFB, 0x55), (0xFFF8, 0x66), (0xFFF9, 0x66)]

/-- A native state with I = 0 at 12:8000, whose next samples of the inputs are given. -/
def ready (inp : List Pins) : State :=
  { mk 0 0 0 0x01FF 0x0000 0x34 0x12 0x8000 0x08 false ((0x128000, 0xEA) :: vectors) with input := inp }

/-- The same in emulation mode. -/
def readyE (inp : List Pins) : State :=
  { mk 0 0 0 0x0100 0x0000 0x34 0x12 0x8000 0x38 true ((0x128000, 0xEA) :: vectors) with input := inp }

def irqLow : Pins := { Pins.idle with irqb := false }
def nmiLow : Pins := { Pins.idle with nmib := false }
def aborting : Pins := { Pins.idle with abort := true }
def resetLow : Pins := { Pins.idle with resb := false }

theorem test_irq_native : stepTo (ready [irqLow]) (fun t => t.pc == 0x1111 && t.pbr == 0x00 && t.dbr == 0x34 &&
    t.sp == 0x01FB && t.readByte 0x0001FF == 0x12 && t.readByte 0x0001FC == 0x08 && t.fI && !t.fD) = true := by decide

theorem test_irq_emulation : stepTo (readyE [irqLow]) (fun t => t.pc == 0x4444 && t.dbr == 0x00 && t.sp == 0x01FD &&
    t.readByte 0x000100 == 0x80 && t.readByte 0x0001FE == 0x28) = true := by decide

theorem test_nmi_before_irq : stepTo (ready [{ irqLow with nmib := false }])
    (fun t => t.pc == 0x2222 && !t.nmiPending) = true := by decide

theorem test_abort_suppresses : stepTo (ready [aborting])
    (fun t => t.pc == 0x8000 && t.abortPending && stepTo t (fun u => u.pc == 0x3333 && u.readByte 0x0001FE == 0x80)) =
    true := by decide

theorem test_abort_during_abort : (match step { ready [aborting] with abortPending := true } with
    | .next _ => false
    | .fault _ => false
    | .refused r => r == .abortDuringAbort) = true := by decide

theorem test_wait_ends_with_nmi : stepTo { ready [nmiLow] with waiting := true }
    (fun t => t.pc == 0x2222 && !t.waiting) = true := by decide

theorem test_wait_with_irq_masked : stepTo { ready [irqLow] with waiting := true, p := 0x04 }
    (fun t => t.pc == 0x8001 && !t.waiting) = true := by decide

theorem test_stopped_until_reset : stepTo { ready [irqLow] with stopped := true } (fun t => t.pc == 0x8000 && t.stopped) =
    true := by decide

theorem test_reset_step : stepTo { ready [resetLow] with mem := [(0xFFFC, 0x34), (0xFFFD, 0x12)] }
    (fun t => t.pc == 0x1234 && t.e && t.pbr == 0x00 && t.d == 0x0000) = true := by decide

/-- RESB falls after three of the four cycles of a 16-bit PHA (71_bus_cycles.md R647): the high byte is pushed, the low byte is
not, and the processor is reset (70_reset_and_hazards.md R500). -/
theorem test_reset_in_the_middle :
    stepTo { wide with mem := [(0x8000, 0x48), (0xFFFC, 0x34), (0xFFFD, 0x12)],
                       input := [{ Pins.idle with resetAfter := some 3 }] }
      (fun t => t.readByte 0x0001FF == 0x12 && t.readByte 0x0001FE == 0x00 && t.pc == 0x1234 && t.e && t.d == 0x0000) =
    true := by decide

/-- Any reset shows two conditioning cycles with RWB = 1, VDA = VPA = 0, VPB = 1 (10_state.md R60), then cycle 1 of R645. -/
theorem test_reset_conditioning : ((busCycles (ready [resetLow])).map fun c => (c.rwb, c.vda, c.vpa, c.vpb)).take 3 =
    [(true, false, false, true), (true, false, false, true), (true, true, true, true)] := by decide

/-- Out of the stop of STP these are the rows 1b and 1a of R641, and cycle 1 is the row BEGIN. -/
theorem test_reset_cycles_after_stp : ((busCycles { ready [resetLow] with stopped := true }).map fun c =>
    (c.addr, c.vda, c.vpa, c.vpb)).take 4 =
    [(0x128000, false, false, true), (0x128000, false, false, true), (0x008000, true, true, true),
      (0x008000, false, false, true)] := by decide

/-! ### The platform (65_pins_and_bus.md R467 a) -/

/-- The platform substitutes the IRQ vector while VPB is low; as data the same bytes read as memory holds them. -/
theorem test_vector_substitution :
    stepTo (ready [{ irqLow with answers := [⟨.vector, 0x00FFEE, 0x78⟩, ⟨.vector, 0x00FFEF, 0x56⟩] }])
      (fun t => t.pc == 0x5678 && t.memRead .data 0x00FFEE == 0x11) = true := by decide

/-- A device answers data reads at 000010: LDA gets the answer, the locked read of INC does not. -/
theorem test_answer_by_kind :
    let s := { narrow with pins := { Pins.idle with answers := [⟨.data, 0x000010, 0x42⟩] } }
    ((after (.ldaDir 0x10) s).c, (after (.incDir 0x10) s).readByte 0x000010) = (0x1242, 0x01) := by decide

/-- LDA (10) whose pointer is 0010, so that it overlaps its own operand, on a device that a read moves on (71_bus_cycles.md R631):
the pointer's low byte is the first answer and the operand the second, in the accumulator and on the bus. -/
theorem test_read_sensitive_pointer :
    let s := { narrow with mem := [(0x8000, 0xB2), (0x8001, 0x10)],
                           input := [{ Pins.idle with answers := [⟨.data, 0x000010, 0x10⟩, ⟨.data, 0x000010, 0x99⟩] }] }
    ((stepped s).c, (busCycles s).map (·.data)) =
      (0x1299, [some 0xB2, some 0x10, some 0x10, some 0x00, some 0x99]) := by decide

/-- JMP (8001,X) with X = 0 reads its pointer over its own operand bytes, in program cycles too (R614): the second answer. -/
theorem test_read_sensitive_operand :
    (after (.jmpAbsIndX 0x8001) { narrow with
      x := 0x0000, mem := [(0x8002, 0x80)],
      pins := { Pins.idle with answers := [⟨.program, 0x008001, 0x01⟩, ⟨.program, 0x008001, 0x34⟩] } }).pc = 0x8034 := by
  decide

/-- Another bus master puts INX at the next opcode (20_memory.md R80). -/
theorem test_platform_change : stepTo (ready [{ Pins.idle with changes := [(0x128000, 0xE8)] }])
    (fun t => t.x == 0x0001 && t.pc == 0x8001) = true := by decide

/-! ### The program placed by withFetchWord is what the next step runs -/

theorem test_withFetchWord_runs : stepTo (State.reset.withFetchWord 16 0x42A9) (fun t => t.c == 0x0042) = true := by
  decide

theorem test_withFetchWord_long : (decodeTableWord 32 0x01123422, (State.reset.withFetchWord 32 0x01123422).fetch) =
    (some (.jsl 0x011234), .jsl 0x011234) := by decide

/-! ### Witnesses: a concrete state and operands that meet the hypotheses of each statement -/

theorem witness_DecodeEncode : WellFormed ⟨true, true⟩ (.ldaImm 0x00FF) ∧ WellFormed ⟨false, false⟩ (.ldxImm 0xFFFF) ∧
    WellFormed ⟨true, false⟩ (.mvn 0xFF 0x00) := by decide

theorem witness_EncodeDecode : decode ⟨true, true⟩ [0xA9, 0x11, 0x22] = .ok (.ldaImm 0x0011, [0x22]) := by decide

theorem witness_EveryOpcodeDecodes :
    (decode ⟨true, true⟩ [0xA9, 0x11, 0x22] = .ok (.ldaImm 0x0011, [0x22]) ∧
      decode ⟨false, true⟩ [0xA9, 0x33, 0x44] = .ok (.ldaImm 0x4433, [])) ∧
    (Instr.cpyImm 0xFFFF).operand? = some (.imm 0xFFFF) ∧ (∀ v, Instr.nop.operand? ≠ some (.imm v)) :=
  ⟨⟨by decide, by decide⟩, rfl, fun _ h => nomatch h⟩

theorem witness_StepRunsDecoded : (boundary (ready [])).2 = .run ∧
    decode (boundary (ready [])).1.widths ((List.range 1).map (boundary (ready [])).1.fetchByte) = .ok (.nop, []) := by
  decide

theorem witness_RunsOnWithoutAbort : NeverAborts (ready [irqLow, nmiLow, resetLow]) := by
  unfold NeverAborts; decide

theorem witness_StepKeepsModeInv : ModeInv emu ∧ step emu = .next (stepped emu) := ⟨by unfold ModeInv; decide, rfl⟩

theorem witness_StepKeepsMemInv : MemInv (ready [irqLow]) ∧ step (ready [irqLow]) = .next (stepped (ready [irqLow])) :=
  ⟨by unfold MemInv; decide, rfl⟩

theorem witness_BanksAndDirectWrittenOnlyBy :
    (exec (.jsrAbs 0x1234) emu = .next (after (.jsrAbs 0x1234) emu) ∧ (Instr.jsrAbs 0x1234).writesPbr = false ∧
      (Instr.jsrAbs 0x1234).mnemonic.writesD = false ∧ (Instr.jsrAbs 0x1234).mnemonic.writesDbr = false) ∧
    (exec (.brk 0x00) wide = .next (after (.brk 0x00) wide) ∧ (Instr.brk 0x00).mnemonic = .brk ∧ wide.e = false) ∧
    (exec (.cop 0xFF) wide = .next (after (.cop 0xFF) wide) ∧ (Instr.cop 0xFF).mnemonic = .cop) :=
  ⟨⟨rfl, rfl, rfl, rfl⟩, ⟨rfl, rfl, rfl⟩, rfl, rfl⟩

theorem witness_EmulationBitWrittenOnlyBy : let cut := ready [{ Pins.idle with resetAfter := some 1 }]
    (step cut = .next (stepped cut) ∧ (stepped cut).e ≠ cut.e) ∧
    (step (ready [resetLow]) = .next (stepped (ready [resetLow])) ∧ (stepped (ready [resetLow])).e ≠ (ready [resetLow]).e) ∧
    (step { emu with mem := [(0x8000, 0xFB)] } = .next (stepped { emu with mem := [(0x8000, 0xFB)] }) ∧
      (stepped { emu with mem := [(0x8000, 0xFB)] }).e ≠ emu.e) :=
  ⟨⟨rfl, by decide⟩, ⟨rfl, by decide⟩, rfl, by decide⟩

theorem witness_FlagsAndMemoryWrittenOnlyBy : exec .clc wide = .next (after .clc wide) ∧
    Instr.clc.mnemonic.stores = false := ⟨rfl, rfl⟩

theorem witness_LoadAccumulator : (Instr.ldaImm 0x00FF).mnemonic = .lda ∧
    (Instr.ldaImm 0x00FF).operand? = some (.imm 0x00FF) ∧ (Instr.ldaDirX 0xFF).operand? = some (.mem (.dirX 0xFF)) ∧
    narrow.fM = true ∧ wide.fM = false := by decide

theorem witness_LoadIndex : ((Instr.ldxDirY 0x00).mnemonic = .ldx ∧ (Instr.ldxDirY 0x00).operand? = some (.mem (.dirY 0x00))) ∧
    ((Instr.ldyImm 0xFFFF).mnemonic = .ldy ∧ (Instr.ldyImm 0xFFFF).operand? = some (.imm 0xFFFF)) ∧ narrow.fX = true ∧
    wide.fX = false := by decide

theorem witness_Stores : (Instr.staSrIndY 0xFF).operand? = some (.mem (.srIndY 0xFF)) ∧ (Instr.staSrIndY 0xFF).mnemonic = .sta ∧
    (Instr.stxDirY 0x00).operand? = some (.mem (.dirY 0x00)) ∧ (Instr.stxDirY 0x00).mnemonic = .stx ∧
    (Instr.styAbs 0xFFFF).operand? = some (.mem (.abs 0xFFFF)) ∧ (Instr.styAbs 0xFFFF).mnemonic = .sty ∧
    (Instr.stzAbsX 0x0000).operand? = some (.mem (.absX 0x0000)) ∧ (Instr.stzAbsX 0x0000).mnemonic = .stz ∧
    wide.wA = .w16 ∧ narrow.wX = .w8 := by decide

theorem witness_AddBinary : (Instr.adcImm 0x00FF).mnemonic = .adc ∧ (Instr.adcImm 0x00FF).operand? = some (.imm 0x00FF) ∧
    narrow.fD = false ∧ wide.fD = false ∧ narrow.wA = .w8 := by decide

theorem witness_SubtractBinary : (Instr.sbcAbs 0xFFFF).mnemonic = .sbc ∧
    (Instr.sbcAbs 0xFFFF).operand? = some (.mem (.abs 0xFFFF)) ∧ wide.fD = false ∧ narrow.wA = .w8 := by decide

/-- Decimal mode on 99 and 01 with the carry clear: ADC wraps to 00, and the difference 99 - 01 - 1 is 97. -/
theorem witness_DecimalValid : let s := { narrow with c := 0x1299, p := 0x38 }
    (Instr.adcImm 0x0001).operand? = some (.imm 0x0001) ∧ (Instr.adcImm 0x0001).mnemonic = .adc ∧
    (Instr.sbcImm 0x0001).operand? = some (.imm 0x0001) ∧ (Instr.sbcImm 0x0001).mnemonic = .sbc ∧ s.fD = true ∧
    validBcd s.wA s.c = true ∧ validBcd s.wA ((Operand.imm 0x0001).read s.wA s) = true ∧ s.fC = false ∧ s.wA = .w8 ∧
    ((100 : Int) = decOf s.wA s.c + decOf s.wA ((Operand.imm 0x0001).read s.wA s)) ∧ bcdDigits s.wA = 2 ∧
    ((97 : Int) = decOf s.wA s.c - decOf s.wA ((Operand.imm 0x0001).read s.wA s) - 1) := by decide

theorem witness_DecimalInvalidCompletes : let s := { narrow with c := 0x129A, p := 0x38 }
    (Instr.adcImm 0x0001).mnemonic = .adc ∧ (Instr.adcImm 0x0001).operand? = some (.imm 0x0001) ∧ s.fD = true ∧
    validBcd s.wA s.c = false ∧ validBcd s.wA ((Operand.imm 0x000A).read s.wA s) = false ∧
    (Instr.sbcImm 0x000A).mnemonic = .sbc ∧ (Instr.sbcImm 0x000A).operand? = some (.imm 0x000A) ∧ s.fM = true := by decide

theorem witness_Logic : (Instr.andImm 0x0000).operand? = some (.imm 0x0000) ∧ (Instr.andImm 0x0000).mnemonic = .and ∧
    (Instr.oraLongX 0xFFFFFF).operand? = some (.mem (.longX 0xFFFFFF)) ∧ (Instr.oraLongX 0xFFFFFF).mnemonic = .ora ∧
    (Instr.eorDirIndY 0xFF).operand? = some (.mem (.dirIndY 0xFF)) ∧ (Instr.eorDirIndY 0xFF).mnemonic = .eor ∧
    narrow.fM = true ∧ wide.fM = false := by decide

theorem witness_Compare : (Instr.cmpSr 0xFF).operand? = some (.mem (.sr 0xFF)) ∧ (Instr.cmpSr 0xFF).mnemonic = .cmp ∧
    (Instr.cpxImm 0x0000).operand? = some (.imm 0x0000) ∧ (Instr.cpxImm 0x0000).mnemonic = .cpx ∧
    (Instr.cpyDir 0x00).operand? = some (.mem (.dir 0x00)) ∧ (Instr.cpyDir 0x00).mnemonic = .cpy := by decide

theorem witness_BitTest : (Instr.bitImm 0x00C0).mnemonic = .bit ∧ (Instr.bitImm 0x00C0).operand? = some (.imm 0x00C0) ∧
    (Instr.bitDirX 0xFF).mnemonic = .bit ∧ (Instr.bitDirX 0xFF).operand? = some (.mem (.dirX 0xFF)) := by decide

theorem witness_ShiftAccumulator :
    Instr.aslAcc.mnemonic.shiftResult narrow.wA.bits 0 (trunc narrow.wA { narrow with c := 0x12FF }.c).toNat =
      some (0xFE, true) ∧
    Instr.lsrAcc.mnemonic.shiftResult narrow.wA.bits 0 (trunc narrow.wA { narrow with c := 0x1201 }.c).toNat =
      some (0x00, true) ∧
    Instr.rolAcc.mnemonic.shiftResult wide.wA.bits 1 (trunc wide.wA { wide with c := 0x8000 }.c).toNat =
      some (0x0001, true) ∧
    Instr.rorAcc.mnemonic.shiftResult wide.wA.bits 1 (trunc wide.wA { wide with c := 0x0000 }.c).toNat =
      some (0x8000, false) ∧ narrow.fC = false ∧ { wide with p := 0x01 }.fC = true := by decide

theorem witness_ShiftMemory : let s := { narrow with mem := [(0x0000FF, 0x80)] }
    (Instr.aslDir 0xFF).operand? = some (.mem (.dir 0xFF)) ∧ s.fC = false ∧
    (Instr.aslDir 0xFF).mnemonic.shiftResult s.wA.bits 0 (s.loadLoc .locked s.wA ((MemMode.dir 0xFF).loc s)).toNat =
      some (0x00, true) ∧
    (Instr.lsrDir 0xFF).mnemonic.shiftResult s.wA.bits 0 (s.loadLoc .locked s.wA ((MemMode.dir 0xFF).loc s)).toNat =
      some (0x40, false) ∧
    (Instr.rolDir 0xFF).mnemonic.shiftResult s.wA.bits 0 (s.loadLoc .locked s.wA ((MemMode.dir 0xFF).loc s)).toNat =
      some (0x00, true) ∧
    (Instr.rorDir 0xFF).mnemonic.shiftResult s.wA.bits 0 (s.loadLoc .locked s.wA ((MemMode.dir 0xFF).loc s)).toNat =
      some (0x40, false) := by decide

theorem witness_CountMemory : let s := { narrow with mem := [(0x0000FF, 0xFF)] }
    (Instr.incDir 0xFF).operand? = some (.mem (.dir 0xFF)) ∧ (Instr.incDir 0xFF).mnemonic = .inc ∧
    (Instr.decDir 0x00).operand? = some (.mem (.dir 0x00)) ∧ (Instr.decDir 0x00).mnemonic = .dec ∧
    0 = ((s.loadLoc .locked s.wA ((MemMode.dir 0xFF).loc s)).toNat + 1) % 2 ^ s.wA.bits ∧
    255 = ((s.loadLoc .locked s.wA ((MemMode.dir 0x00).loc s)).toNat + 2 ^ s.wA.bits - 1) % 2 ^ s.wA.bits := by decide

theorem witness_TestAndSetResetBits : let s := { narrow with c := 0x120F, mem := [(0x0000FF, 0xFF)] }
    (Instr.tsbDir 0xFF).operand? = some (.mem (.dir 0xFF)) ∧ (Instr.tsbDir 0xFF).mnemonic = .tsb ∧
    (Instr.trbDir 0xFF).operand? = some (.mem (.dir 0xFF)) ∧ (Instr.trbDir 0xFF).mnemonic = .trb ∧
    0x12FF = s.loadLoc .locked s.wA ((MemMode.dir 0xFF).loc s) ||| s.c ∧
    0x00F0 = s.loadLoc .locked s.wA ((MemMode.dir 0xFF).loc s) &&& ~~~s.c := by decide

theorem witness_modes : wide.fM = false ∧ wide.fX = false ∧ wide.e = false ∧ wide.fC = false ∧ narrow.fM = true ∧
    narrow.fX = true ∧ narrow.e = false ∧ emu.e = true ∧ { wide with p := 0x01 }.fC = true ∧ wide.wA = .w16 ∧
    wide.wX = .w16 ∧ narrow.wA = .w8 ∧ narrow.wX = .w8 := by decide

theorem witness_Exchanges : wide.fC = false ∧ { wide with p := 0x01 }.fC = true := by decide

theorem witness_Pushes : narrow.wA = .w8 ∧ wide.wA = .w16 ∧ narrow.wX = .w8 ∧ wide.wX = .w16 := by decide

theorem witness_Pulls : narrow.fM = true ∧ wide.fM = false ∧ narrow.fX = true ∧ wide.fX = false ∧ emu.e = true := by decide

/-- The four forms of a word push, and a PEI pointer at the top of bank 0. -/
theorem witness_PushWords : (∃ v, Instr.phd = .phd ∧ v = wide.d) ∧ Instr.pea 0xFFFF = .pea 0xFFFF ∧
    (∃ d : Byte, Instr.pei 0xFF = .pei d ∧
      word (wide.memRead .data (bank0 (wide.d + zext d + 1))) (wide.memRead .data (bank0 (wide.d + zext d))) = 0x0000) ∧
    (∃ off : Word, Instr.per 0x7FFD = .per off ∧ wide.pc + 3 + off = 0x0000) :=
  ⟨⟨_, rfl, rfl⟩, rfl, ⟨0xFF, rfl, by decide⟩, 0x7FFD, rfl, by decide⟩

theorem witness_WriteStatus :
    (∃ mask : Byte, Instr.rep 0xFF = .rep mask ∧ narrow.p &&& ~~~mask = 0x00) ∧
    (∃ mask : Byte, Instr.sep 0x30 = .sep mask ∧ wide.p ||| mask = 0x30) ∧
    emu.memRead .data (bank0 (spAfterPull emu 1)) = 0x00 := ⟨⟨0xFF, rfl, by decide⟩, ⟨0x30, rfl, by decide⟩, by decide⟩

/-- A taken and an untaken branch, forward and backward across the ends of the bank. -/
theorem witness_Branches : (!wide.fC) = true ∧ wide.fC = false ∧
    (after (.bcc 0x7F) { wide with pc := 0xFFF0 }).pc = 0x0071 ∧
    (after (.bcc 0x80) { wide with pc := 0x0000 }).pc = 0xFF82 ∧
    (after (.bcs 0x7F) { wide with pc := 0xFFFF }).pc = 0x0001 := by decide

theorem witness_Calls : let s := { wide with mem := [(0x8001, 0x34), (0x8002, 0x12), (0x8003, 0xFF)] }
    s.fetchByte 2 = hi 0x1234 ∧ s.fetchByte 3 = (0xFF1234 : Addr).extractLsb' 16 8 ∧ s.e = false ∧ emu.e = true := by decide

/-- The bank byte of a JSL in the stack: the fetch after the first push sees PBR. -/
theorem witness_Calls_refetch : let s := { wide with sp := 0x8003, mem := [(0x8003, 0xFF)] }
    s.fetchByte 3 = (0xFF1234 : Addr).extractLsb' 16 8 ∧ addr s.pbr (s.pc + 3) = bank0 s.sp ∧
    answerFor s.pins.answers .program (bank0 s.sp) = none ∧ (after (.jsl 0xFF1234) s).pbr = 0x00 := by decide

/-- The same where the platform answers that read itself. -/
theorem witness_Calls_answered :
    let s := { wide with sp := 0x8003, pins := { Pins.idle with answers := [⟨.program, 0x008003, 0xFF⟩] } }
    s.fetchByte 3 = (0xFF1234 : Addr).extractLsb' 16 8 ∧ addr s.pbr (s.pc + 3) = bank0 s.sp ∧
    answerFor s.pins.answers .program (bank0 s.sp) ≠ none ∧ (after (.jsl 0xFF1234) s).pbr = 0xFF := by decide

theorem witness_CallThenReturn : (PlainData emu ∧ exec (.jsrAbs 0x1234) emu = .next (after (.jsrAbs 0x1234) emu)) ∧
    (PlainData wide ∧ wide.e = false ∧ exec (.jsl 0x011234) wide = .next (after (.jsl 0x011234) wide)) :=
  ⟨⟨fun _ => rfl, rfl⟩, fun _ => rfl, rfl, rfl⟩

theorem witness_BlockMoves : (Instr.mvn 0x02 0x01 = .mvn 0x02 0x01 ∧ 1 = 1) ∧
    (2 ^ wide.wX.bits - 1 = 65535 ∧ 2 ^ narrow.wX.bits - 1 = 255) ∧ { wide with c := 0x0000 }.c = 0x0000 := by decide

theorem witness_InterruptNative : (ready []).e = false := by decide

theorem witness_InterruptEmulation : (readyE []).e = true := by decide

theorem witness_ReturnFromInterrupt : (after .rti { wide with mem := [(0x0200, 0x10)] }).fX = true ∧
    (after .rti wide).fX = false ∧ emu.e = true ∧ wide.e = false := by decide

theorem witness_InterruptThenReturn : ((ready []).e = false ∧ ModeInv (ready []) ∧ PlainData (ready [])) ∧
    (narrow.e = false ∧ ModeInv narrow ∧ PlainData narrow) :=
  ⟨⟨rfl, by unfold ModeInv; decide, fun _ => rfl⟩, rfl, by unfold ModeInv; decide, fun _ => rfl⟩

theorem witness_InterruptPriority_abort : let s := { ready [nmiLow] with abortPending := true }
    let t := s.sample.latchNmi
    t.pins.resb = true ∧ t.stopped = false ∧ t.waiting = false ∧ t.pins.resetAfter = none ∧
    t.pins.abort = false ∧ t.abortPending = true := by decide

theorem witness_InterruptPriority_nmi : let t := (ready [{ irqLow with nmib := false }]).sample.latchNmi
    t.pins.resb = true ∧ t.stopped = false ∧ t.waiting = false ∧ t.pins.resetAfter = none ∧
    t.pins.abort = false ∧ t.abortPending = false ∧
    t.nmiPending = true := by decide

theorem witness_InterruptPriority_irq : let t := (ready [irqLow]).sample.latchNmi
    t.pins.resb = true ∧ t.stopped = false ∧ t.waiting = false ∧ t.pins.resetAfter = none ∧
    t.pins.abort = false ∧ t.abortPending = false ∧
    t.nmiPending = false ∧ t.pins.irqb = false ∧ t.fI = false := by decide

theorem witness_InterruptPriority_run : let t := { ready [irqLow] with p := 0x04 }.sample.latchNmi
    t.pins.resb = true ∧ t.stopped = false ∧ t.waiting = false ∧ t.pins.resetAfter = none ∧
    t.pins.abort = false ∧ t.abortPending = false ∧
    t.nmiPending = false ∧ t.fI = true ∧ (ready []).sample.latchNmi.pins.irqb = true := by decide

theorem witness_NmiEdge : (ready [nmiLow]).sample.pins.resb = true ∧ (ready [nmiLow]).stopped = false ∧
    ((ready [nmiLow]).nmiPrev = true ∧ (ready [nmiLow]).sample.pins.nmib = false) := by decide

theorem witness_AbortSuppresses : let s := ready [aborting]
    (boundary s).2 = .run ∧ s.waiting = false ∧ s.sample.pins.abort = true ∧
    (stepped s).sample.latchNmi.pins.resb = true ∧ (stepped s).sample.latchNmi.pins.resetAfter = none ∧
    (stepped s).sample.latchNmi.pins.abort = false := by decide

theorem witness_ResetStep : let s := ready [{ irqLow with resetAfter := some 5 }]
    ((ready [resetLow]).sample.pins.resb = false ∧ (decideAction (ready [resetLow]).sample).2 ≠ .abortDuringAbort ∧
      (ready [resetLow]).sample.pins.resetAfter = none) ∧
    (s.sample.pins.resetAfter = some 5 ∧ (decideAction s.sample).2 = .take .irq 0x8000 ∧
      (stepped s).readByte 0x0001FE = 0x80 ∧ (stepped s).readByte 0x0001FC = 0x00) := by decide

theorem witness_StoppedOnlyReset : let s := { ready [nmiLow] with stopped := true }
    s.stopped = true ∧ s.sample.pins.resb = true ∧ s.sample.pins.resetAfter = none := by decide

theorem witness_WaitEnds : let s := fun inp : List Pins => { ready inp with waiting := true }
    (∀ inp ∈ [[], [irqLow], [nmiLow], [{ nmiLow with abort := true }]],
      (s inp).waiting = true ∧ (s inp).stopped = false ∧ (s inp).sample.pins.resb = true ∧
        (s inp).sample.pins.resetAfter = none) ∧
    ((s []).sample.latchNmi.nmiPending = false ∧ (s []).sample.latchNmi.pins.irqb = true) ∧
    ((s [{ nmiLow with abort := true }]).sample.latchNmi.nmiPending = true ∧
      (s [{ nmiLow with abort := true }]).sample.latchNmi.pins.abort = true) ∧
    ((s [nmiLow]).sample.latchNmi.nmiPending = true ∧
      ((s [nmiLow]).sample.latchNmi.abortPending || (s [nmiLow]).sample.latchNmi.pins.abort) = false) ∧
    ((s [irqLow]).sample.latchNmi.nmiPending = false ∧ (s [irqLow]).sample.latchNmi.pins.irqb = false ∧
      ((s [irqLow]).sample.latchNmi.abortPending || (s [irqLow]).sample.latchNmi.pins.abort) = false ∧
      (s [irqLow]).fI = false ∧ { s [irqLow] with p := 0x04 }.fI = true) := by decide

theorem witness_BusWritesExplainMemory : step (readyE [irqLow]) = .next (stepped (readyE [irqLow])) := rfl

theorem witness_BusReadsSeeMemory : ((busCycles (ready [])).map fun c => (c.valid, c.rwb, c.data)) =
    [(true, true, some 0xEA), (false, true, none)] := by decide

end Sys2Proof.Machine.Tests
end

/-! PROOF. What a store does to each part of the state, and the statement on STA, STX, STY and STZ
(40_load_store.md R204 to R207). -/

namespace Sys2Proof.Machine

/-! ### The shared operation of the stores -/

@[simp] theorem store_pc (w : Width) (m : MemMode) (v : Word) (s : State) :
    (store w m v s).pc = s.pc + BitVec.ofNat 16 m.len := by simp [store]

@[simp] theorem store_p (w : Width) (m : MemMode) (v : Word) (s : State) : (store w m v s).p = s.p := by simp [store]

@[simp] theorem store_readByte (w : Width) (m : MemMode) (v : Word) (s : State) (a : Addr) :
    (store w m v s).readByte a = (s.writeLoc w (m.loc s) v).readByte a := by simp [store]

theorem store_onlyChanges (w : Width) (m : MemMode) (v : Word) (s : State) :
    OnlyChanges [.mem, .pc] s (store w m v s) := by
  intro f hf
  cases f with
  | mem | pc => simp at hf
  | _ => simp [Field.same, store]

theorem store_memoryKept (w : Width) (m : MemMode) (v : Word) (s : State) :
    MemoryKept ((m.loc s).bytes w) s (store w m v s) := by
  intro a ha
  rw [store_readByte, readByte_writeLoc_other s w (m.loc s) v a ha]

/-- An instruction that runs the shared store completes as R204 to R207 say, whatever its width, mode and value. -/
theorem completesWith_of_exec_store {i : Instr} {w : Width} {m : MemMode} {v : Word} {s : State}
    (h : exec i s = .next (store w m v s)) :
    CompletesWith i s [.mem, .pc] 0x00 ((m.loc s).bytes w) fun t =>
      t.pc = s.pc + BitVec.ofNat 16 m.len ∧ t.readByte (m.loc s).a0 = lo v ∧
        (w = .w16 → t.readByte (m.loc s).a1 = hi v) := by
  refine ⟨store w m v s, h, store_onlyChanges w m v s, ?_, store_memoryKept w m v s, store_pc w m v s, ?_, ?_⟩
  · rw [FlagsKept, store_p]
  · rw [store_readByte, readByte_writeLoc_a0]
  · rintro rfl
    rw [store_readByte, readByte_writeLoc_a1]

/-! ### The four mnemonics -/

/-- The width and the value that go with a store's mnemonic (R204 to R207) are those its instruction runs the shared store
with. -/
theorem exec_store {i : Instr} {m : MemMode} {s : State} {mn : Mnemonic} {w : Width} {v : Word}
    (ho : i.operand? = some (.mem m)) (hmn : i.mnemonic = mn)
    (h : (mn, w, v) ∈ [(.sta, s.wA, s.c), (.stx, s.wX, s.x), (.sty, s.wX, s.y), (.stz, s.wA, 0x0000)]) :
    exec i s = .next (store w m v s) := by
  have hexec := exec_data i (.mem m) s ho
  simp only [List.mem_cons, Prod.mk.injEq, List.not_mem_nil, or_false] at h
  obtain ⟨rfl, rfl, rfl⟩ | ⟨rfl, rfl, rfl⟩ | ⟨rfl, rfl, rfl⟩ | ⟨rfl, rfl, rfl⟩ := h <;>
    rw [hexec, hmn] <;> rfl

/-- Settles O18: every store instruction runs the shared store at its mnemonic's width and value. -/
theorem stores : Obligations.Stores := by
  constructor
  · intro f aa al d
    rfl
  · intro i m s ho mn w v hmem hmn
    exact completesWith_of_exec_store (exec_store ho hmn hmem)

end Sys2Proof.Machine

/-! PROOF. What a transfer to S does to each part of the state, and the statement on TXS and TCS (43_transfer.md R256, R261). -/

namespace Sys2Proof.Machine

/-! ### A write of S in the two modes (10_state.md R36) -/

@[simp] theorem forcedSp_native (v : Word) : forcedSp false v = v := rfl

@[simp] theorem forcedSp_emulation (v : Word) : forcedSp true v = word 0x01 (lo v) := rfl

/-! ### The shared operation of the transfers to S -/

@[simp] theorem toS_pc (v : Word) (s : State) : (toS v s).pc = s.pc + 1 := by simp [toS]

@[simp] theorem toS_sp (v : Word) (s : State) : (toS v s).sp = forcedSp s.e v := by simp [toS]

@[simp] theorem toS_p (v : Word) (s : State) : (toS v s).p = s.p := by simp [toS]

@[simp] theorem toS_readByte (v : Word) (s : State) (a : Addr) : (toS v s).readByte a = s.readByte a := by simp [toS]

theorem toS_onlyChanges (v : Word) (s : State) : OnlyChanges [.sp, .pc] s (toS v s) := by
  intro f hf
  cases f with
  | sp | pc => simp at hf
  | _ => simp [Field.same, toS]

/-- An instruction that runs the shared transfer to S completes as R256 and R261 say, whatever its source. -/
theorem completesWith_of_exec_toS {i : Instr} {v : Word} {s : State} (h : exec i s = .next (toS v s)) :
    CompletesWith i s [.sp, .pc] 0x00 [] fun t =>
      t.pc = s.pc + 1 ∧ (s.e = false → t.sp = v) ∧ (s.e = true → t.sp = word 0x01 (lo v)) := by
  refine ⟨toS v s, h, toS_onlyChanges v s, ?_, ?_, toS_pc v s, ?_, ?_⟩
  · rw [FlagsKept, toS_p]
  · intro a _
    rw [toS_readByte]
  · intro native
    rw [toS_sp, native, forcedSp_native]
  · intro emulation
    rw [toS_sp, emulation, forcedSp_emulation]

/-! ### The two instructions -/

theorem exec_txs (s : State) : exec .txs s = .next (toS s.x s) := rfl

theorem exec_tcs (s : State) : exec .tcs s = .next (toS s.c s) := rfl

/-- Settles O32: TXS and TCS run the shared transfer to S, one from X and the other from C. -/
theorem transferToStackPointer : Obligations.TransferToStackPointer := by
  constructor
  · intro f
    rfl
  · intro s i v hsource
    simp only [List.mem_cons, Prod.mk.injEq, List.not_mem_nil, or_false] at hsource
    obtain ⟨rfl, rfl⟩ | ⟨rfl, rfl⟩ := hsource
    · exact completesWith_of_exec_toS (exec_txs s)
    · exact completesWith_of_exec_toS (exec_tcs s)

end Sys2Proof.Machine

/-! PROOF. What a two-byte push with 16-bit arithmetic on S does to each part of the state, and the statement on PHD, PEA,
PEI and PER (44_stack.md R273, R284 to R286). -/

namespace Sys2Proof.Machine

/-! ### The shared operation of the four -/

@[simp] theorem pushWord_pc (len : Nat) (v : Word) (s : State) :
    (pushWord len v s).pc = s.pc + BitVec.ofNat 16 len := by simp [pushWord]

@[simp] theorem pushWord_p (len : Nat) (v : Word) (s : State) : (pushWord len v s).p = s.p := by simp [pushWord]

@[simp] theorem pushWord_sp (len : Nat) (v : Word) (s : State) :
    (pushWord len v s).sp = forcedSp s.e (s.sp - 2) := by
  have two_lower : s.sp - 1 - 1 = s.sp - 2 := by bv_omega
  rw [pushWord, advance_sp, fixSh_value, pushN16_e, pushN16_sp, two_lower]

@[simp] theorem pushWord_readByte (len : Nat) (v : Word) (s : State) (a : Addr) :
    (pushWord len v s).readByte a = (s.pushN16 v).readByte a := by simp [pushWord]

theorem pushWord_onlyChanges (len : Nat) (v : Word) (s : State) :
    OnlyChanges [.sp, .mem, .pc] s (pushWord len v s) := by
  intro f hf
  cases f with
  | sp | mem | pc => simp at hf
  | _ => simp [Field.same, pushWord]

/-! ### The two bytes of a push with 16-bit arithmetic on S -/

theorem pushN16_readByte_low (s : State) (v : Word) : (s.pushN16 v).readByte (bank0 (s.sp - 1)) = lo v := by
  rw [pushN16_readByte, if_pos rfl]

/-- The low byte does not overwrite the high byte: S - 1 is never S. -/
theorem pushN16_readByte_high (s : State) (v : Word) : (s.pushN16 v).readByte (bank0 s.sp) = hi v := by
  have apart : bank0 s.sp ≠ bank0 (s.sp - 1) := by
    rw [ne_eq, bank0_eq_iff]
    bv_omega
  rw [pushN16_readByte, if_neg apart, if_pos rfl]

theorem pushN16_memoryKept (s : State) (v : Word) : MemoryKept [bank0 s.sp, bank0 (s.sp - 1)] s (s.pushN16 v) := by
  intro a ha
  simp only [List.mem_cons, List.not_mem_nil, or_false, not_or] at ha
  obtain ⟨not_high, not_low⟩ := ha
  rw [pushN16_readByte, if_neg not_low, if_neg not_high]

/-- An instruction that runs the shared push completes as R273 and R284 to R286 say, whatever its value and length. -/
theorem completesWith_of_exec_pushWord {i : Instr} {len : Nat} {v : Word} {s : State}
    (h : exec i s = .next (pushWord len v s)) :
    CompletesWith i s [.sp, .mem, .pc] 0x00 [bank0 s.sp, bank0 (s.sp - 1)] fun t =>
      t.pc = s.pc + BitVec.ofNat 16 len ∧ t.readByte (bank0 s.sp) = hi v ∧ t.readByte (bank0 (s.sp - 1)) = lo v ∧
        (s.e = false → t.sp = s.sp - 2) ∧ (s.e = true → t.sp = word 0x01 (lo (s.sp - 2))) := by
  refine ⟨pushWord len v s, h, pushWord_onlyChanges len v s, ?_, ?_, pushWord_pc len v s, ?_, ?_, ?_, ?_⟩
  · rw [FlagsKept, pushWord_p]
  · intro a ha
    rw [pushWord_readByte, pushN16_memoryKept s v a ha]
  · rw [pushWord_readByte, pushN16_readByte_high]
  · rw [pushWord_readByte, pushN16_readByte_low]
  · intro native
    rw [pushWord_sp, native, forcedSp_native]
  · intro emulation
    rw [pushWord_sp, emulation, forcedSp_emulation]

/-! ### The value of PEI (44_stack.md R285) -/

theorem dirLongLoc_a0_eq (s : State) (d : Byte) : (dirLongLoc s d).a0 = bank0 (s.d + zext d) := rfl

/-- The pointer's second byte stays in bank 0. -/
theorem dirLongLoc_a1_eq (s : State) (d : Byte) : (dirLongLoc s d).a1 = bank0 (s.d + zext d + 1) := by
  simp [dirLongLoc, Loc.a1, Succ.apply, incBank, bank0]

theorem readPtr16_dirLongLoc (s : State) (d : Byte) :
    s.readPtr16 (dirLongLoc s d) =
      word (s.memRead .data (bank0 (s.d + zext d + 1))) (s.memRead .data (bank0 (s.d + zext d))) := by
  rw [State.readPtr16, dirLongLoc_a0_eq, dirLongLoc_a1_eq]

/-! ### The four instructions -/

theorem exec_phd (s : State) : exec .phd s = .next (pushWord 1 s.d s) := rfl

theorem exec_pea (v : Word) (s : State) : exec (.pea v) s = .next (pushWord 3 v s) := rfl

theorem exec_pei (d : Byte) (s : State) :
    exec (.pei d) s = .next (pushWord 2
      (word (s.memRead .data (bank0 (s.d + zext d + 1))) (s.memRead .data (bank0 (s.d + zext d)))) s) := by
  rw [← readPtr16_dirLongLoc]
  rfl

theorem exec_per (off : Word) (s : State) : exec (.per off) s = .next (pushWord 3 (s.pc + 3 + off) s) := rfl

/-- PEI takes one cycle more where DL is not 00. -/
theorem instrCount_pei (d : Byte) (s : State) : instrCount (.pei d) s = if lo s.d = 0x00 then 6 else 7 := by
  change 6 + plus (lo s.d != 0) 1 = _
  by_cases aligned : lo s.d = 0x00
  · simp [plus, aligned]
  · rw [plus, if_pos (bne_iff_ne.2 aligned), if_neg aligned]

/-- Settles O36: PHD, PEA, PEI and PER run the shared push, each at its own length and value. -/
theorem pushWords : Obligations.PushWords := by
  refine ⟨?_, ?_, ?_⟩
  · intro f aa off d
    rfl
  · intro s aa off d
    simp only [List.map, instrCount_pei]
    rfl
  · intro s i len v hinstr
    obtain ⟨rfl, rfl, rfl⟩ | ⟨rfl, rfl⟩ | ⟨d, rfl, rfl, rfl⟩ | ⟨off, rfl, rfl, rfl⟩ := hinstr
    · exact completesWith_of_exec_pushWord (exec_phd s)
    · exact completesWith_of_exec_pushWord (exec_pea v s)
    · exact completesWith_of_exec_pushWord (exec_pei d s)
    · exact completesWith_of_exec_pushWord (exec_per off s)

end Sys2Proof.Machine

/-! PROOF. What writing one flag does to each part of the state, and the statement on CLC, CLD, CLI, CLV, SEC, SED and SEI
(45_status.md R291 to R297). -/

namespace Sys2Proof.Machine

/-! ### One flag of P -/

/-- The mask of bit `i` has that bit set, so its complement hides bit `i`. -/
theorem complement_bitMask_getLsbD (i : Nat) : (~~~(BitVec.ofNat 8 (2 ^ i))).getLsbD i = false := by
  simp only [BitVec.getLsbD_not, BitVec.getLsbD_ofNat, Nat.testBit_two_pow_self]
  simp

theorem setFlag_advance_onlyChanges (s : State) (bit n : Nat) (v : Bool) :
    OnlyChanges [.p, .pc] s ((s.setFlag bit v).advance n) := by
  intro f hf
  cases f with
  | p | pc => simp at hf
  | _ => simp [Field.same]

theorem setFlag_advance_flagsKept (s : State) (bit n : Nat) (v : Bool) :
    FlagsKept (BitVec.ofNat 8 (2 ^ bit)) s ((s.setFlag bit v).advance n) := by
  rw [FlagsKept, advance_p, setFlag_value, setBit_and _ _ _ _ (complement_bitMask_getLsbD bit)]

/-- An instruction that writes one flag and moves PC on by 1 completes as R291 to R297 say, whatever the flag and its value. -/
theorem completesWith_of_exec_setFlag {i : Instr} {s : State} {bit : Nat} {v : Bool} (hbit : bit < 8)
    (h : exec i s = .next ((s.setFlag bit v).advance 1)) :
    CompletesWith i s [.p, .pc] (BitVec.ofNat 8 (2 ^ bit)) [] fun t => t.pc = s.pc + 1 ∧ t.p.getLsbD bit = v := by
  refine ⟨(s.setFlag bit v).advance 1, h, setFlag_advance_onlyChanges s bit 1 v, setFlag_advance_flagsKept s bit 1 v,
    ?_, ?_, ?_⟩
  · intro a _
    rw [advance_readByte, setFlag_readByte]
  · simp
  · rw [advance_p, setFlag_value, setBit_getLsbD _ _ _ _ hbit, if_pos rfl]

/-! ### The seven instructions -/

theorem exec_clc (s : State) : exec .clc s = .next ((s.setFlag 0 false).advance 1) := rfl

theorem exec_cld (s : State) : exec .cld s = .next ((s.setFlag 3 false).advance 1) := rfl

theorem exec_cli (s : State) : exec .cli s = .next ((s.setFlag 2 false).advance 1) := rfl

theorem exec_clv (s : State) : exec .clv s = .next ((s.setFlag 6 false).advance 1) := rfl

theorem exec_sec (s : State) : exec .sec s = .next ((s.setFlag 0 true).advance 1) := rfl

theorem exec_sed (s : State) : exec .sed s = .next ((s.setFlag 3 true).advance 1) := rfl

theorem exec_sei (s : State) : exec .sei s = .next ((s.setFlag 2 true).advance 1) := rfl

/-- Settles O38: each of the seven writes its one flag and moves PC on by 1. -/
theorem singleFlags : Obligations.SingleFlags := by
  constructor
  · intro f
    rfl
  · intro s i bit v hinstr
    simp only [List.mem_cons, Prod.mk.injEq, List.not_mem_nil, or_false] at hinstr
    obtain ⟨rfl, rfl, rfl⟩ | ⟨rfl, rfl, rfl⟩ | ⟨rfl, rfl, rfl⟩ | ⟨rfl, rfl, rfl⟩ | ⟨rfl, rfl, rfl⟩ | ⟨rfl, rfl, rfl⟩ |
      ⟨rfl, rfl, rfl⟩ := hinstr
    · exact completesWith_of_exec_setFlag (by decide) (exec_clc s)
    · exact completesWith_of_exec_setFlag (by decide) (exec_cld s)
    · exact completesWith_of_exec_setFlag (by decide) (exec_cli s)
    · exact completesWith_of_exec_setFlag (by decide) (exec_clv s)
    · exact completesWith_of_exec_setFlag (by decide) (exec_sec s)
    · exact completesWith_of_exec_setFlag (by decide) (exec_sed s)
    · exact completesWith_of_exec_setFlag (by decide) (exec_sei s)

end Sys2Proof.Machine

/-! PROOF. Encoding and decoding undo each other, and the statements on them (30_encoding.md R100 to R107). -/

namespace Sys2Proof

open Machine

/-! ### Encode, then decode -/

section
open Laws.Reassemble

/-- The bytes of every well-formed instruction assemble to it again: the host's lemmas, one for each opcode in the order of the
constructors. -/
theorem reassemble (i : Instr) : Laws.Reassemble.Statement i :=
  i.casesOn
    brk oraDirIndX cop oraSr tsbDir oraDir aslDir oraDirIndLong oraImm tsbAbs oraAbs aslAbs oraLong bpl oraDirIndY
    oraDirInd oraSrIndY trbDir oraDirX aslDirX oraDirIndLongY oraAbsY trbAbs oraAbsX aslAbsX oraLongX jsrAbs
    andDirIndX jsl andSr bitDir andDir rolDir andDirIndLong andImm bitAbs andAbs rolAbs andLong bmi andDirIndY
    andDirInd andSrIndY bitDirX andDirX rolDirX andDirIndLongY andAbsY bitAbsX andAbsX rolAbsX andLongX eorDirIndX wdm
    eorSr mvp eorDir lsrDir eorDirIndLong eorImm jmpAbs eorAbs lsrAbs eorLong bvc eorDirIndY eorDirInd eorSrIndY mvn
    eorDirX lsrDirX eorDirIndLongY eorAbsY jmpLong eorAbsX lsrAbsX eorLongX adcDirIndX per adcSr stzDir adcDir rorDir
    adcDirIndLong adcImm jmpAbsInd adcAbs rorAbs adcLong bvs adcDirIndY adcDirInd adcSrIndY stzDirX adcDirX rorDirX
    adcDirIndLongY adcAbsY jmpAbsIndX adcAbsX rorAbsX adcLongX bra staDirIndX brl staSr styDir staDir stxDir
    staDirIndLong bitImm styAbs staAbs stxAbs staLong bcc staDirIndY staDirInd staSrIndY styDirX staDirX stxDirY
    staDirIndLongY staAbsY stzAbs staAbsX stzAbsX staLongX ldyImm ldaDirIndX ldxImm ldaSr ldyDir ldaDir ldxDir
    ldaDirIndLong ldaImm ldyAbs ldaAbs ldxAbs ldaLong bcs ldaDirIndY ldaDirInd ldaSrIndY ldyDirX ldaDirX ldxDirY
    ldaDirIndLongY ldaAbsY ldyAbsX ldaAbsX ldxAbsY ldaLongX cpyImm cmpDirIndX rep cmpSr cpyDir cmpDir decDir
    cmpDirIndLong cmpImm cpyAbs cmpAbs decAbs cmpLong bne cmpDirIndY cmpDirInd cmpSrIndY pei cmpDirX decDirX
    cmpDirIndLongY cmpAbsY jml cmpAbsX decAbsX cmpLongX cpxImm sbcDirIndX sep sbcSr cpxDir sbcDir incDir sbcDirIndLong
    sbcImm cpxAbs sbcAbs incAbs sbcLong beq sbcDirIndY sbcDirInd sbcSrIndY pea sbcDirX incDirX sbcDirIndLongY sbcAbsY
    jsrAbsIndX sbcAbsX incAbsX sbcLongX php aslAcc phd clc incAcc tcs plp rolAcc pld sec decAcc tsc rti pha lsrAcc phk
    cli phy tcd rts pla rorAcc rtl sei ply tdc dey txa phb tya txs txy tay tax plb clv tsx tyx iny dex wai cld phx stp
    inx nop xba sed plx xce

end

/-- The encoding of an instruction is as long as its length says. -/
theorem encode_length {f : Widths} {i : Instr} (hwf : WellFormed f i) : (encode f i).length = i.len f := by
  obtain ⟨op, l, -, rfl⟩ := reassemble i f [] hwf
  have hlen := len_bounds f (assemble op ⟨f, l.getD 0 0, l.getD 1 0, l.getD 2 0⟩)
  rw [encode_assemble, List.length_take, Nat.min_eq_left]
  exact hlen.2

/-- Settles O1: the bytes assemble to the instruction, and what is left after its length is the rest. -/
theorem decodeEncode : Obligations.DecodeEncode := by
  intro f i rest hwf
  obtain ⟨op, l, hbytes, hassemble⟩ := reassemble i f rest hwf
  have hlen := encode_length hwf
  have hpos := (len_bounds f i).1
  have hcount := congrArg List.length hbytes
  have hrest := congrArg (List.drop (i.len f)) hbytes
  rw [List.length_append, List.length_cons, hlen] at hcount
  rw [List.drop_append_of_le_length (by omega), ← hlen, List.drop_length, List.nil_append, hlen] at hrest
  obtain ⟨n, hn⟩ : ∃ n, i.len f = n + 1 := ⟨i.len f - 1, by omega⟩
  rw [hbytes, decode, hassemble]
  rw [if_neg (by omega), hrest, hn]
  rfl

/-! ### Decode, then encode -/

/-- What a byte string decodes to is what its first bytes assemble to, and the string is long enough for it. -/
theorem decode_ok {f : Widths} {op : Byte} {l rest : List Byte} {i : Instr} (h : decode f (op :: l) = .ok (i, rest)) :
    assemble op ⟨f, l.getD 0 0, l.getD 1 0, l.getD 2 0⟩ = i ∧ i.len f ≤ l.length + 1 ∧
      rest = (op :: l).drop (i.len f) := by
  rw [decode] at h
  split at h
  · cases h
  · next hlong =>
    injection h with h
    injection h with hi hrest
    subst hi
    have hpos := (len_bounds f (assemble op ⟨f, l.getD 0 0, l.getD 1 0, l.getD 2 0⟩)).1
    refine ⟨rfl, by omega, ?_⟩
    rw [← hrest, List.drop_cons (by omega)]

/-- The first bytes of a string are those read with zeros for the missing ones, as far as it goes. -/
theorem take_getD (op : Byte) (l : List Byte) (n : Nat) (hl : n ≤ l.length + 1) (hn : n ≤ 4) :
    [op, l.getD 0 0, l.getD 1 0, l.getD 2 0].take n = (op :: l).take n := by
  rcases l with _ | ⟨b1, _ | ⟨b2, _ | ⟨b3, l⟩⟩⟩ <;> simp only [List.length_cons, List.length_nil] at hl <;>
    interval_cases n <;> rfl

theorem wellFormed_of_decode {f : Widths} {bs rest : List Byte} {i : Instr} (h : decode f bs = .ok (i, rest)) :
    WellFormed f i := by
  cases bs with
  | nil => cases h
  | cons op l =>
    obtain ⟨rfl, -, -⟩ := decode_ok h
    exact wellFormed_assemble f op _ _ _

/-- Settles O2: the encoding is as many of the bytes as the length says, and the rest is what follows them. -/
theorem encodeDecode : Obligations.EncodeDecode := by
  intro f bs rest i h
  refine ⟨wellFormed_of_decode h, ?_⟩
  cases bs with
  | nil => cases h
  | cons op l =>
    obtain ⟨hi, hlong, hrest⟩ := decode_ok h
    have henc := encode_assemble f op (l.getD 0 0) (l.getD 1 0) (l.getD 2 0)
    rw [hi, take_getD op l _ hlong (len_bounds f i).2] at henc
    rw [henc, hrest, List.take_append_drop]

/-! ### Every opcode -/

/-- Only an immediate's length depends on the width flags, each on the flag that governs its mnemonic (R103). -/
theorem len_imm {i : Instr} {v : Word} (h : i.operand? = some (.imm v)) (f : Widths) :
    i.len f = if (if i.mnemonic.usesX then f.x else f.m) then 2 else 3 := by
  cases i <;> cases h <;> rfl

theorem len_of_not_imm {i : Instr} (h : ∀ v, i.operand? ≠ some (.imm v)) (f g : Widths) : i.len f = i.len g := by
  cases i with
  | oraImm v | andImm v | eorImm v | adcImm v | bitImm v | ldyImm v | ldxImm v | ldaImm v | cpyImm v | cmpImm v | cpxImm v
  | sbcImm v => exact absurd rfl (h v)
  | _ => rfl

/-- Settles O3: four bytes are enough for every opcode, and the mnemonic is the opcode's. -/
theorem everyOpcodeDecodes : Obligations.EveryOpcodeDecodes := by
  refine ⟨?_, ?_, fun i f g => ⟨fun v h => len_imm h f, fun h => len_of_not_imm h f g⟩⟩
  · intro f b0 b1 b2 b3 rest
    obtain ⟨hpos, hle⟩ := len_bounds f (assemble b0 ⟨f, b1, b2, b3⟩)
    refine ⟨assemble b0 ⟨f, b1, b2, b3⟩, ?_, hpos, hle⟩
    have hdrop := List.drop_cons (a := b0) (l := b1 :: b2 :: b3 :: rest) hpos
    rw [hdrop, decode]
    simp only [List.getD_cons_zero, List.getD_cons_succ, List.length_cons]
    rw [if_neg (by omega)]
  · intro f g b l l' r r' i j hi hj
    obtain ⟨rfl, -, -⟩ := decode_ok hi
    obtain ⟨rfl, -, -⟩ := decode_ok hj
    exact mnemonic_assemble b _ _

/-- Settles O4: each word assembles to its instruction by evaluation. -/
theorem sampleWords : Obligations.SampleWords :=
  ⟨rfl, rfl, rfl, rfl, rfl, rfl, rfl, rfl, rfl, rfl, rfl⟩

end Sys2Proof

namespace Sys2Proof.Machine

/-! ### The fetch -/

/-- Bytes that decode to an instruction, and any bytes that begin with the same ones, assemble to it: the decoder looks at no
byte behind the instruction. -/
theorem assemble_of_encode_take {f : Widths} {i : Instr} {op b1 b2 b3 : Byte} (hwf : WellFormed f i)
    (h : encode f i = [op, b1, b2, b3].take (i.len f)) : assemble op ⟨f, b1, b2, b3⟩ = i := by
  have hdec := decodeEncode f i ([op, b1, b2, b3].drop (i.len f)) hwf
  rw [h, List.take_append_drop] at hdec
  exact (decode_ok hdec).1

theorem fetch_of_decode {s : State} {n : Nat} {i : Instr} {rest : List Byte}
    (h : decode s.widths ((List.range n).map s.fetchByte) = .ok (i, rest)) : s.fetch = i := by
  refine assemble_of_encode_take (wellFormed_of_decode h) ?_
  obtain ⟨hwf, henc⟩ := encodeDecode _ _ _ _ h
  have hlen := encode_length hwf
  have hle := (len_bounds s.widths i).2
  have hn : i.len s.widths ≤ n := by
    have := congrArg List.length henc
    simp only [List.length_append, List.length_map, List.length_range] at this
    omega
  have hfour : [s.fetchByte 0, s.fetchByte 1, s.fetchByte 2, s.fetchByte 3] = (List.range 4).map s.fetchByte := rfl
  have htake := congrArg (List.take (i.len s.widths)) henc
  rw [← hlen, List.take_left, hlen, ← List.map_take, List.take_range, Nat.min_eq_left hn] at htake
  rw [hfour, ← List.map_take, List.take_range, Nat.min_eq_left hle, htake]

/-- Settles O5: the fetch of the sampled state is the instruction its bytes decode to. -/
theorem stepRunsDecoded : Obligations.StepRunsDecoded := by
  intro s i n rest hrun t hdecode
  have hfetch : t.fetch = i := fetch_of_decode hdecode
  rw [step_eq, hrun, ← hfetch]
  rfl

end Sys2Proof.Machine

/-! PROOF. The common part of the statements on single instructions: what `CompletesWith` needs, the flags after a write of P, and
the registers after a write at their width (10_state.md R21, R23; 00_scope.md R9). -/

namespace Sys2Proof.Machine

/-! ### Completing -/

/-- A completion may be weakened in what it says of the result. -/
theorem CompletesWith.imp {i : Instr} {s : State} {fields : List Field} {flags : Byte} {stored : List Addr}
    {P Q : State → Prop} (h : CompletesWith i s fields flags stored P) (hPQ : ∀ t, P t → Q t) :
    CompletesWith i s fields flags stored Q := by
  obtain ⟨t, hexec, hfields, hflags, hmem, hpost⟩ := h
  exact ⟨t, hexec, hfields, hflags, hmem, hPQ t hpost⟩

/-- An instruction whose frame leaves memory out stores nothing. -/
theorem memoryKept_of_onlyChanges {fields : List Field} {s t : State} (h : OnlyChanges fields s t)
    (hmem : Field.mem ∉ fields) (stored : List Addr) : MemoryKept stored s t :=
  fun a _ => readByte_congr s t (h .mem hmem) a

/-- An instruction whose frame leaves P out writes no flag. -/
theorem flagsKept_of_onlyChanges {fields : List Field} {s t : State} (h : OnlyChanges fields s t)
    (hp : Field.p ∉ fields) (flags : Byte) : FlagsKept flags s t := by
  rw [FlagsKept, h .p hp]

/-- An instruction that stores nothing completes by its registers and flags. -/
theorem completesWith_of_registers {i : Instr} {s t : State} {fields : List Field} {flags : Byte} {P : State → Prop}
    (h : exec i s = .next t) (hfields : OnlyChanges fields s t) (hmem : Field.mem ∉ fields) (hflags : FlagsKept flags s t)
    (hpost : P t) : CompletesWith i s fields flags [] P :=
  ⟨t, h, hfields, hflags, memoryKept_of_onlyChanges hfields hmem [], hpost⟩

/-- An instruction that writes no flag and stores nothing completes by its registers. -/
theorem completesWith_of_noFlags {i : Instr} {s t : State} {fields : List Field} {flags : Byte} {P : State → Prop}
    (h : exec i s = .next t) (hfields : OnlyChanges fields s t) (hmem : Field.mem ∉ fields) (hp : Field.p ∉ fields)
    (hpost : P t) : CompletesWith i s fields flags [] P :=
  completesWith_of_registers h hfields hmem (flagsKept_of_onlyChanges hfields hp flags) hpost

/-- An instruction that answers this state has the frame of its completion. -/
theorem CompletesWith.frame {i : Instr} {s t : State} {fields : List Field} {flags : Byte} {stored : List Addr}
    {P : State → Prop} (h : CompletesWith i s fields flags stored P) (hexec : exec i s = .next t) :
    OnlyChanges fields s t ∧ FlagsKept flags s t ∧ MemoryKept stored s t := by
  obtain ⟨u, hexec', hfields, hflags, hmem, -⟩ := h
  rw [hexec] at hexec'
  injection hexec' with htu
  subst htu
  exact ⟨hfields, hflags, hmem⟩

/-! ### Flags after a write of P -/

@[simp] theorem fN_setNZ (s : State) (w : Width) (v : Word) : (s.setNZ w v).fN = msb w v := by simp [State.fN]
@[simp] theorem fZ_setNZ (s : State) (w : Width) (v : Word) : (s.setNZ w v).fZ = isZero w v := by simp [State.fZ]
@[simp] theorem fC_setNZ (s : State) (w : Width) (v : Word) : (s.setNZ w v).fC = s.fC := by simp [State.fC]
@[simp] theorem fV_setNZ (s : State) (w : Width) (v : Word) : (s.setNZ w v).fV = s.fV := by simp [State.fV]
@[simp] theorem fC_setV (s : State) (v : Bool) : (s.setV v).fC = s.fC := by simp [State.fC]
@[simp] theorem fC_setC (s : State) (v : Bool) : (s.setC v).fC = v := by simp [State.fC]
@[simp] theorem fV_setV (s : State) (v : Bool) : (s.setV v).fV = v := by simp [State.fV]
@[simp] theorem fN_setV (s : State) (v : Bool) : (s.setV v).fN = s.fN := by simp [State.fN]
@[simp] theorem fZ_setV (s : State) (v : Bool) : (s.setV v).fZ = s.fZ := by simp [State.fZ]
@[simp] theorem fN_setN (s : State) (v : Bool) : (s.setN v).fN = v := by simp [State.fN]
@[simp] theorem fZ_setN (s : State) (v : Bool) : (s.setN v).fZ = s.fZ := by simp [State.fZ]
@[simp] theorem fN_setZ (s : State) (v : Bool) : (s.setZ v).fN = s.fN := by simp [State.fN]
@[simp] theorem fV_setZ (s : State) (v : Bool) : (s.setZ v).fV = s.fV := by simp [State.fV]
@[simp] theorem fZ_setZ (s : State) (v : Bool) : (s.setZ v).fZ = v := by simp [State.fZ]

@[simp] theorem fN_advance (s : State) (n : Nat) : (s.advance n).fN = s.fN := rfl
@[simp] theorem fV_advance (s : State) (n : Nat) : (s.advance n).fV = s.fV := rfl
@[simp] theorem fZ_advance (s : State) (n : Nat) : (s.advance n).fZ = s.fZ := rfl
@[simp] theorem fC_advance (s : State) (n : Nat) : (s.advance n).fC = s.fC := rfl

/-! ### A register at its width -/

theorem wA_narrow {s : State} (h : s.fM = true) : s.wA = .w8 := (wA_eq_w8 s).2 h
theorem wA_wide {s : State} (h : s.fM = false) : s.wA = .w16 := (wA_eq_w16 s).2 h
theorem wX_narrow {s : State} (h : s.fX = true) : s.wX = .w8 := (wX_eq_w8 s).2 h
theorem wX_wide {s : State} (h : s.fX = false) : s.wX = .w16 := (wX_eq_w16 s).2 h

/-- With P.M = 1 the accumulator takes a byte and B is kept. -/
theorem setA_narrow {s : State} (h : s.fM = true) (v : Word) : (s.setA s.wA v).c = word (hi s.c) (lo v) := by
  rw [wA_narrow h, setA_value_w8]

/-- With P.M = 0 the accumulator takes the whole word. -/
theorem setA_wide {s : State} (h : s.fM = false) (v : Word) : (s.setA s.wA v).c = v := by
  rw [wA_wide h, setA_value_w16]

theorem hi_setA_narrow {s : State} (h : s.fM = true) (v : Word) : hi (s.setA s.wA v).c = hi s.c := by
  rw [wA_narrow h, hi_setA]

/-- With P.X = 1 an index register takes a byte and its high byte is 00. -/
theorem trunc_wX_narrow {s : State} (h : s.fX = true) (v : Word) : trunc s.wX v = word 0x00 (lo v) := by
  rw [wX_narrow h]; rfl

theorem trunc_wX_wide {s : State} (h : s.fX = false) (v : Word) : trunc s.wX v = v := by
  rw [wX_wide h]; rfl

/-! ### A result in a register, with N and Z of it -/

/-- The accumulator takes a result at its width, with N and Z of it (00_scope.md R9). -/
theorem completesWith_of_exec_putA {i : Instr} {s : State} {v : Word} {n : Nat}
    (h : exec i s = .next (((s.setA s.wA v).setNZ s.wA v).advance n)) :
    CompletesWith i s [.c, .p, .pc] 0x82 [] fun t =>
      t.pc = s.pc + BitVec.ofNat 16 n ∧ t.c = (s.setA s.wA v).c ∧ t.fN = msb s.wA v ∧ t.fZ = isZero s.wA v := by
  refine completesWith_of_registers h ?_ (by decide) ?_ ⟨?_, rfl, ?_, ?_⟩
  · intro f hf
    cases f with
    | c | p | pc => simp at hf
    | _ => simp [Field.same]
  · simp [FlagsKept]
  · simp
  · simp
  · simp

/-- X takes a result at its width, with N and Z of it. -/
theorem completesWith_of_exec_putX {i : Instr} {s : State} {v : Word} {n : Nat}
    (h : exec i s = .next (((s.setX s.wX v).setNZ s.wX v).advance n)) :
    CompletesWith i s [.x, .p, .pc] 0x82 [] fun t =>
      t.pc = s.pc + BitVec.ofNat 16 n ∧ t.x = trunc s.wX v ∧ t.fN = msb s.wX v ∧ t.fZ = isZero s.wX v := by
  refine completesWith_of_registers h ?_ (by decide) ?_ ⟨?_, rfl, ?_, ?_⟩
  · intro f hf
    cases f with
    | x | p | pc => simp at hf
    | _ => simp [Field.same]
  · simp [FlagsKept]
  · simp
  · simp
  · simp

/-- Y takes a result at its width, with N and Z of it. -/
theorem completesWith_of_exec_putY {i : Instr} {s : State} {v : Word} {n : Nat}
    (h : exec i s = .next (((s.setY s.wX v).setNZ s.wX v).advance n)) :
    CompletesWith i s [.y, .p, .pc] 0x82 [] fun t =>
      t.pc = s.pc + BitVec.ofNat 16 n ∧ t.y = trunc s.wX v ∧ t.fN = msb s.wX v ∧ t.fZ = isZero s.wX v := by
  refine completesWith_of_registers h ?_ (by decide) ?_ ⟨?_, rfl, ?_, ?_⟩
  · intro f hf
    cases f with
    | y | p | pc => simp at hf
    | _ => simp [Field.same]
  · simp [FlagsKept]
  · simp
  · simp
  · simp

end Sys2Proof.Machine

/-! PROOF. The instructions that put a result in one register: LDA, LDX, LDY (40_load_store.md R201 to R203), AND, ORA, EOR
(41_arithmetic_logic.md R225 to R227), the register counts (R232 to R237), the accumulator shifts (42_shift_rmw.md R241 to R244)
and the transfers (43_transfer.md R251 to R262). -/

namespace Sys2Proof.Machine

/-! ### Loads -/

theorem exec_lda {i : Instr} {o : Operand} {s : State} (hmn : i.mnemonic = .lda) (ho : i.operand? = some o) :
    exec i s = .next (((s.setA s.wA (o.read s.wA s)).setNZ s.wA (o.read s.wA s)).advance (o.len s.wA)) := by
  rw [exec_data i o s ho, hmn]
  rfl

theorem exec_ldx {i : Instr} {o : Operand} {s : State} (hmn : i.mnemonic = .ldx) (ho : i.operand? = some o) :
    exec i s = .next (((s.setX s.wX (o.read s.wX s)).setNZ s.wX (o.read s.wX s)).advance (o.len s.wX)) := by
  rw [exec_data i o s ho, hmn]
  rfl

theorem exec_ldy {i : Instr} {o : Operand} {s : State} (hmn : i.mnemonic = .ldy) (ho : i.operand? = some o) :
    exec i s = .next (((s.setY s.wX (o.read s.wX s)).setNZ s.wX (o.read s.wX s)).advance (o.len s.wX)) := by
  rw [exec_data i o s ho, hmn]
  rfl

/-- Settles O16: LDA puts the operand in the accumulator. -/
theorem loadAccumulator : Obligations.LoadAccumulator := by
  constructor
  · intro f v aa al d
    rfl
  · intro i o s hmn ho v
    refine (completesWith_of_exec_putA (exec_lda hmn ho)).imp fun t ⟨hpc, hc, hN, hZ⟩ => ?_
    exact ⟨hpc, fun narrow => hc.trans (setA_narrow narrow v), fun wide => hc.trans (setA_wide wide v), hN, hZ⟩

/-- Settles O17: LDX and LDY put the operand in their register. -/
theorem loadIndex : Obligations.LoadIndex := by
  constructor
  · intro f v aa d
    rfl
  · intro i o s ho v fits
    constructor
    · intro hmn
      refine (completesWith_of_exec_putX (exec_ldx hmn ho)).imp fun t ⟨hpc, hx, hN, hZ⟩ => ?_
      exact ⟨hpc, ⟨fun narrow => hx.trans (trunc_wX_narrow narrow v), fun wide => hx.trans (trunc_wX_wide wide v)⟩, hN, hZ⟩
    · intro hmn
      refine (completesWith_of_exec_putY (exec_ldy hmn ho)).imp fun t ⟨hpc, hy, hN, hZ⟩ => ?_
      exact ⟨hpc, ⟨fun narrow => hy.trans (trunc_wX_narrow narrow v), fun wide => hy.trans (trunc_wX_wide wide v)⟩, hN, hZ⟩

/-! ### Logic -/

/-- Putting a value cut to the accumulator's width is putting the value. -/
theorem setA_trunc (s : State) (w : Width) (v : Word) : s.setA w (trunc w v) = s.setA w v := by
  cases w <;> simp [State.setA]

theorem setNZ_trunc (s : State) (w : Width) (v : Word) : s.setNZ w (trunc w v) = s.setNZ w v := by
  simp [State.setNZ]

theorem logic_eq (f : Word → Word → Word) (o : Operand) (s : State) :
    logic f o s =
      ((s.setA s.wA (f s.c (o.read s.wA s))).setNZ s.wA (f s.c (o.read s.wA s))).advance (o.len s.wA) := by
  rw [logic, setA_trunc, setNZ_trunc]

/-- An instruction that runs the shared logic operation completes as R225 to R227 say. -/
theorem completesWith_of_exec_logic {i : Instr} {f : Word → Word → Word} {o : Operand} {s : State}
    (h : exec i s = .next (logic f o s)) :
    CompletesWith i s [.c, .p, .pc] 0x82 [] fun t =>
      t.pc = s.pc + BitVec.ofNat 16 (o.len s.wA) ∧
        (s.fM = true → t.c = word (hi s.c) (lo (f s.c (o.read s.wA s)))) ∧
        (s.fM = false → t.c = f s.c (o.read s.wA s)) ∧ t.fN = msb s.wA (f s.c (o.read s.wA s)) ∧
        t.fZ = isZero s.wA (f s.c (o.read s.wA s)) := by
  rw [logic_eq] at h
  refine (completesWith_of_exec_putA h).imp fun t ⟨hpc, hc, hN, hZ⟩ => ?_
  exact ⟨hpc, fun narrow => hc.trans (setA_narrow narrow _), fun wide => hc.trans (setA_wide wide _), hN, hZ⟩

/-- Settles O23: AND, ORA and EOR run the shared logic operation. -/
theorem logic_instructions : Obligations.Logic := by
  constructor
  · intro f v aa al d
    rfl
  · intro i o s ho mn r hmem hmn
    have hexec := exec_data i o s ho
    rw [hmn] at hexec
    simp only [List.mem_cons, Prod.mk.injEq, List.not_mem_nil, or_false] at hmem
    obtain ⟨rfl, rfl⟩ | ⟨rfl, rfl⟩ | ⟨rfl, rfl⟩ := hmem
    · exact completesWith_of_exec_logic (f := (· &&& ·)) hexec
    · exact completesWith_of_exec_logic (f := (· ||| ·)) hexec
    · exact completesWith_of_exec_logic (f := (· ^^^ ·)) hexec

/-! ### Counts of registers -/

/-- One up or one down at a width, as a number: what INC and DEC, INX and DEX, INY and DEY have in common. -/
def Counts (f : Width → Word → Word) (k : Width → Nat) : Prop :=
  ∀ w v, trunc w (f w v) = f w v ∧ (f w v).toNat = ((trunc w v).toNat + k w) % 2 ^ w.bits

theorem counts_incr : Counts incr fun _ => 1 :=
  fun w v => ⟨trunc_incr w v, by rw [← incr_toNat, trunc_incr]⟩

theorem counts_decr : Counts decr fun w => 2 ^ w.bits - 1 := by
  intro w v
  refine ⟨trunc_decr w v, ?_⟩
  rw [← trunc_decr, decr_toNat, Nat.add_sub_assoc (Nat.two_pow_pos _)]

theorem Counts.isZero {f : Width → Word → Word} {k : Width → Nat} (h : Counts f k) (w : Width) (v : Word) :
    isZero w (f w v) = decide (((trunc w v).toNat + k w) % 2 ^ w.bits = 0) := by
  rw [isZero_eq_decide, (h w v).1, (h w v).2]

theorem completesWith_of_exec_stepX {i : Instr} {f : Width → Word → Word} {k : Width → Nat} {s : State} (hf : Counts f k)
    (h : exec i s = .next (stepX f s)) :
    CompletesWith i s [.x, .p, .pc] 0x82 [] fun t =>
      t.pc = s.pc + 1 ∧ t.x.toNat = ((trunc s.wX s.x).toNat + k s.wX) % 2 ^ s.wX.bits ∧ t.fN = msb s.wX t.x ∧
        t.fZ = decide (((trunc s.wX s.x).toNat + k s.wX) % 2 ^ s.wX.bits = 0) := by
  refine (completesWith_of_exec_putX h).imp fun t ⟨hpc, hx, hN, hZ⟩ => ?_
  rw [(hf _ _).1] at hx
  exact ⟨hpc, by rw [hx, (hf _ _).2], by rw [hN, hx], by rw [hZ, hf.isZero]⟩

theorem completesWith_of_exec_stepY {i : Instr} {f : Width → Word → Word} {k : Width → Nat} {s : State} (hf : Counts f k)
    (h : exec i s = .next (stepY f s)) :
    CompletesWith i s [.y, .p, .pc] 0x82 [] fun t =>
      t.pc = s.pc + 1 ∧ t.y.toNat = ((trunc s.wX s.y).toNat + k s.wX) % 2 ^ s.wX.bits ∧ t.fN = msb s.wX t.y ∧
        t.fZ = decide (((trunc s.wX s.y).toNat + k s.wX) % 2 ^ s.wX.bits = 0) := by
  refine (completesWith_of_exec_putY h).imp fun t ⟨hpc, hy, hN, hZ⟩ => ?_
  rw [(hf _ _).1] at hy
  exact ⟨hpc, by rw [hy, (hf _ _).2], by rw [hN, hy], by rw [hZ, hf.isZero]⟩

theorem completesWith_of_exec_stepA {i : Instr} {f : Width → Word → Word} {k : Width → Nat} {s : State} (hf : Counts f k)
    (h : exec i s = .next (stepA f s)) :
    CompletesWith i s [.c, .p, .pc] 0x82 [] fun t =>
      t.pc = s.pc + 1 ∧ (trunc s.wA t.c).toNat = ((trunc s.wA s.c).toNat + k s.wA) % 2 ^ s.wA.bits ∧
        (s.fM = true → hi t.c = hi s.c) ∧ t.fN = msb s.wA t.c ∧
        t.fZ = decide (((trunc s.wA s.c).toNat + k s.wA) % 2 ^ s.wA.bits = 0) := by
  refine (completesWith_of_exec_putA h).imp fun t ⟨hpc, hc, hN, hZ⟩ => ?_
  rw [hc]
  exact ⟨hpc, by rw [trunc_setA, (hf _ _).1, (hf _ _).2], fun narrow => hi_setA_narrow narrow _, by rw [hN, msb_setA],
    by rw [hZ, hf.isZero]⟩

theorem exec_inx (s : State) : exec .inx s = .next (stepX incr s) := rfl
theorem exec_dex (s : State) : exec .dex s = .next (stepX decr s) := rfl
theorem exec_iny (s : State) : exec .iny s = .next (stepY incr s) := rfl
theorem exec_dey (s : State) : exec .dey s = .next (stepY decr s) := rfl
theorem exec_incAcc (s : State) : exec .incAcc s = .next (stepA incr s) := rfl
theorem exec_decAcc (s : State) : exec .decAcc s = .next (stepA decr s) := rfl

/-- Settles O26: the six count their register up or down at its width. -/
theorem countRegisters : Obligations.CountRegisters := by
  intro s up down
  have down_eq : ∀ w r, down w r = ((trunc w r).toNat + (2 ^ w.bits - 1)) % 2 ^ w.bits := fun w r => by
    rw [← Nat.add_sub_assoc (Nat.two_pow_pos _)]
  simp only [down_eq, List.mem_cons, Prod.mk.injEq, List.not_mem_nil, or_false]
  refine ⟨?_, ?_, ?_⟩
  · rintro i n (⟨rfl, rfl⟩ | ⟨rfl, rfl⟩)
    · exact completesWith_of_exec_stepX counts_incr (exec_inx s)
    · exact completesWith_of_exec_stepX counts_decr (exec_dex s)
  · rintro i n (⟨rfl, rfl⟩ | ⟨rfl, rfl⟩)
    · exact completesWith_of_exec_stepY counts_incr (exec_iny s)
    · exact completesWith_of_exec_stepY counts_decr (exec_dey s)
  · rintro i n (⟨rfl, rfl⟩ | ⟨rfl, rfl⟩)
    · exact completesWith_of_exec_stepA counts_incr (exec_incAcc s)
    · exact completesWith_of_exec_stepA counts_decr (exec_decAcc s)

/-! ### Shifts of the accumulator -/

/-- The shift of a mnemonic (42_shift_rmw.md R241 to R244) has the result and the carry that `shiftResult` gives it as numbers. -/
theorem shift_spec {mn : Mnemonic} {w : Width} {c : Bool} {v : Word} {n : Nat} {out : Bool}
    (h : mn.shiftResult w.bits (if c then 1 else 0) (trunc w v).toNat = some (n, out)) :
    ∃ f, (mn, f) ∈ [(Mnemonic.asl, asl), (.lsr, lsr), (.rol, rol), (.ror, ror)] ∧ (trunc w (f w c v).r).toNat = n ∧
      (f w c v).c = out := by
  cases mn with
  | asl => injection h with h; injection h with hn hc; exact ⟨asl, by simp, hn ▸ (asl_spec w c v).1, hc ▸ (asl_spec w c v).2⟩
  | lsr => injection h with h; injection h with hn hc; exact ⟨lsr, by simp, hn ▸ (lsr_spec w c v).1, hc ▸ (lsr_spec w c v).2⟩
  | rol => injection h with h; injection h with hn hc; exact ⟨rol, by simp, hn ▸ (rol_spec w c v).1, hc ▸ (rol_spec w c v).2⟩
  | ror => injection h with h; injection h with hn hc; exact ⟨ror, by simp, hn ▸ (ror_spec w c v).1, hc ▸ (ror_spec w c v).2⟩
  | _ => cases h

/-- An instruction that runs the shared accumulator shift puts the shifted value and the bit shifted out. -/
theorem completesWith_of_exec_shiftA {i : Instr} {f : Width → Bool → Word → Shift} {s : State}
    (h : exec i s = .next (shiftA f s)) :
    CompletesWith i s [.c, .p, .pc] 0x83 [] fun t =>
      t.pc = s.pc + 1 ∧ t.c = (s.setA s.wA (f s.wA s.fC s.c).r).c ∧ t.fC = (f s.wA s.fC s.c).c ∧
        t.fN = msb s.wA (f s.wA s.fC s.c).r ∧ t.fZ = isZero s.wA (f s.wA s.fC s.c).r := by
  refine completesWith_of_registers h ?_ (by decide) ?_ ⟨?_, rfl, ?_, ?_, ?_⟩
  · intro f hf
    cases f with
    | c | p | pc => simp at hf
    | _ => simp [Field.same, shiftA]
  · simp [FlagsKept, shiftA]
  · simp [shiftA]
  · simp [shiftA]
  · simp [shiftA]
  · simp [shiftA]

/-- The four accumulator forms run the shared shift of their mnemonic. -/
theorem exec_shiftAcc {i : Instr} {f : Width → Bool → Word → Shift} {s : State}
    (hi : i ∈ [Instr.aslAcc, .lsrAcc, .rolAcc, .rorAcc])
    (hf : (i.mnemonic, f) ∈ [(Mnemonic.asl, asl), (.lsr, lsr), (.rol, rol), (.ror, ror)]) :
    exec i s = .next (shiftA f s) := by
  simp only [List.mem_cons, List.not_mem_nil, or_false] at hi
  obtain rfl | rfl | rfl | rfl := hi <;> simp [Instr.mnemonic] at hf <;> subst hf <;> rfl

/-- Settles O27: the accumulator takes the shifted value, C the bit shifted out. -/
theorem shiftAccumulator : Obligations.ShiftAccumulator := by
  intro i s hi n c hshift
  obtain ⟨f, hf, hr, hc⟩ := shift_spec hshift
  refine (completesWith_of_exec_shiftA (exec_shiftAcc hi hf)).imp fun t ⟨hpc, hacc, hC, hN, hZ⟩ => ?_
  rw [hacc]
  exact ⟨hpc, by rw [trunc_setA, hr], fun narrow => hi_setA_narrow narrow _, by rw [hC, hc], by rw [hN, msb_setA],
    by rw [hZ, isZero_eq_decide, hr]⟩

/-! ### Transfers -/

theorem exec_tax (s : State) : exec .tax s = .next (toX s.c s) := rfl
theorem exec_tsx (s : State) : exec .tsx s = .next (toX s.sp s) := rfl
theorem exec_tyx (s : State) : exec .tyx s = .next (toX s.y s) := rfl
theorem exec_tay (s : State) : exec .tay s = .next (toY s.c s) := rfl
theorem exec_txy (s : State) : exec .txy s = .next (toY s.x s) := rfl
theorem exec_txa (s : State) : exec .txa s = .next (toA s.x s) := rfl
theorem exec_tya (s : State) : exec .tya s = .next (toA s.y s) := rfl

theorem completesWith_of_exec_toX {i : Instr} {v : Word} {s : State} (h : exec i s = .next (toX v s)) :
    CompletesWith i s [.x, .p, .pc] 0x82 [] fun t =>
      t.pc = s.pc + 1 ∧ ((s.fX = true → t.x = word 0x00 (lo v)) ∧ (s.fX = false → t.x = v)) ∧ t.fN = msb s.wX v ∧
        t.fZ = isZero s.wX v :=
  (completesWith_of_exec_putX h).imp fun _ ⟨hpc, hx, hN, hZ⟩ =>
    ⟨hpc, ⟨fun narrow => hx.trans (trunc_wX_narrow narrow v), fun wide => hx.trans (trunc_wX_wide wide v)⟩, hN, hZ⟩

theorem completesWith_of_exec_toY {i : Instr} {v : Word} {s : State} (h : exec i s = .next (toY v s)) :
    CompletesWith i s [.y, .p, .pc] 0x82 [] fun t =>
      t.pc = s.pc + 1 ∧ ((s.fX = true → t.y = word 0x00 (lo v)) ∧ (s.fX = false → t.y = v)) ∧ t.fN = msb s.wX v ∧
        t.fZ = isZero s.wX v :=
  (completesWith_of_exec_putY h).imp fun _ ⟨hpc, hy, hN, hZ⟩ =>
    ⟨hpc, ⟨fun narrow => hy.trans (trunc_wX_narrow narrow v), fun wide => hy.trans (trunc_wX_wide wide v)⟩, hN, hZ⟩

theorem completesWith_of_exec_toA {i : Instr} {v : Word} {s : State} (h : exec i s = .next (toA v s)) :
    CompletesWith i s [.c, .p, .pc] 0x82 [] fun t =>
      t.pc = s.pc + 1 ∧ (s.fM = true → t.c = word (hi s.c) (lo v)) ∧ (s.fM = false → t.c = v) ∧ t.fN = msb s.wA v ∧
        t.fZ = isZero s.wA v :=
  (completesWith_of_exec_putA h).imp fun _ ⟨hpc, hc, hN, hZ⟩ =>
    ⟨hpc, fun narrow => hc.trans (setA_narrow narrow v), fun wide => hc.trans (setA_wide wide v), hN, hZ⟩

/-- Settles O31: each transfer runs the shared operation of its destination on its source. -/
theorem transferIndexAccumulator : Obligations.TransferIndexAccumulator := by
  constructor
  · intro f
    rfl
  · intro s fits
    simp only [List.mem_cons, Prod.mk.injEq, List.not_mem_nil, or_false]
    refine ⟨?_, ?_, ?_⟩
    · rintro i v (⟨rfl, rfl⟩ | ⟨rfl, rfl⟩ | ⟨rfl, rfl⟩)
      · exact completesWith_of_exec_toX (exec_tax s)
      · exact completesWith_of_exec_toX (exec_tsx s)
      · exact completesWith_of_exec_toX (exec_tyx s)
    · rintro i v (⟨rfl, rfl⟩ | ⟨rfl, rfl⟩)
      · exact completesWith_of_exec_toY (exec_tay s)
      · exact completesWith_of_exec_toY (exec_txy s)
    · rintro i v (⟨rfl, rfl⟩ | ⟨rfl, rfl⟩)
      · exact completesWith_of_exec_toA (exec_txa s)
      · exact completesWith_of_exec_toA (exec_tya s)

/-! ### Sixteen-bit transfers (R259, R260, R262) -/

theorem completesWith_of_exec_toC {i : Instr} {v : Word} {s : State} (h : exec i s = .next (toC v s)) :
    CompletesWith i s [.c, .p, .pc] 0x82 [] fun t =>
      t.pc = s.pc + 1 ∧ t.c = v ∧ t.fN = v.msb ∧ t.fZ = decide (v = 0x0000) := by
  refine completesWith_of_registers h ?_ (by decide) ?_ ⟨?_, rfl, ?_, ?_⟩
  · intro f hf
    cases f with
    | c | p | pc => simp at hf
    | _ => simp [Field.same, toC]
  · simp [FlagsKept, toC]
  · simp [toC]
  · simp [toC, msb_w16]
  · simp [toC, isZero_w16]

theorem completesWith_of_exec_toD {i : Instr} {v : Word} {s : State} (h : exec i s = .next (toD v s)) :
    CompletesWith i s [.d, .p, .pc] 0x82 [] fun t =>
      t.pc = s.pc + 1 ∧ t.d = v ∧ t.fN = v.msb ∧ t.fZ = decide (v = 0x0000) := by
  refine completesWith_of_registers h ?_ (by decide) ?_ ⟨?_, rfl, ?_, ?_⟩
  · intro f hf
    cases f with
    | d | p | pc => simp at hf
    | _ => simp [Field.same, toD]
  · simp [FlagsKept, toD]
  · simp [toD]
  · simp [toD, msb_w16]
  · simp [toD, isZero_w16]

theorem exec_tcd (s : State) : exec .tcd s = .next (toD s.c s) := rfl
theorem exec_tdc (s : State) : exec .tdc s = .next (toC s.d s) := rfl
theorem exec_tsc (s : State) : exec .tsc s = .next (toC s.sp s) := rfl

/-- Settles O33: TCD puts C in D, TDC and TSC put D and S in C. -/
theorem transfer16 : Obligations.Transfer16 := by
  constructor
  · intro f
    rfl
  · intro s
    exact ⟨completesWith_of_exec_toD (exec_tcd s), completesWith_of_exec_toC (exec_tdc s),
      completesWith_of_exec_toC (exec_tsc s)⟩

/-! ### Exchanges (R263, R264) -/

theorem exec_xba (s : State) : exec .xba s = .next (exchangeBA s) := rfl

theorem completesWith_xba (s : State) :
    CompletesWith .xba s [.c, .p, .pc] 0x82 [] fun t =>
      t.pc = s.pc + 1 ∧ lo t.c = hi s.c ∧ hi t.c = lo s.c ∧ t.fN = (hi s.c).msb ∧ t.fZ = decide (hi s.c = 0x00) := by
  refine completesWith_of_registers (exec_xba s) ?_ (by decide) ?_ ⟨?_, ?_, ?_, ?_, ?_⟩
  · intro f hf
    cases f with
    | c | p | pc => simp at hf
    | _ => simp [Field.same, exchangeBA]
  · simp [FlagsKept, exchangeBA]
  · simp [exchangeBA]
  · simp [exchangeBA]
  · simp [exchangeBA]
  · simp [exchangeBA, msb_w8]
  · simp [exchangeBA, isZero_w8]

@[simp] theorem forcedP_native (v : Byte) : forcedP false v = v := rfl

/-- Forcing bits 5 and 4 is not seen by a mask without them. -/
theorem forcedP_and (e : Bool) (v m : Byte) (h : 0x30#8 &&& m = 0#8) : forcedP e v &&& m = v &&& m := by
  cases e
  · rfl
  · rw [forcedP, if_pos rfl, BitVec.and_comm, BitVec.and_or_distrib_left, BitVec.and_comm m 0x30#8, h, BitVec.or_zero,
      BitVec.and_comm]

@[simp] theorem fC_setE (s : State) (v : Bool) : (s.setE v).fC = s.fC := by cases v <;> simp [State.fC, forcedP]

theorem fM_setE_true (s : State) : (s.setE true).fM = true := by simp [State.fM, forcedP]
theorem fX_setE_true (s : State) : (s.setE true).fX = true := by simp [State.fX, forcedP]

theorem narrowIndex_true (v : Word) : narrowIndex true v = word 0x00 (lo v) := rfl
theorem narrowIndex_false (v : Word) : narrowIndex false v = v := rfl

theorem exec_xce (s : State) : exec .xce s = .next (((s.setC s.e).setE s.fC).advance 1) := rfl

/-- XCE with C = 0 leaves emulation mode and changes nothing but E and C. -/
theorem completesWith_xce_native {s : State} (hC : s.fC = false) :
    CompletesWith .xce s [.e, .p, .pc] 0x01 [] fun t => t.pc = s.pc + 1 ∧ t.e = false ∧ t.fC = s.e := by
  have hexec := exec_xce s
  rw [hC] at hexec
  refine completesWith_of_registers hexec ?_ (by decide) ?_ ⟨?_, ?_, ?_⟩
  · intro f hf
    cases f with
    | e | p | pc => simp at hf
    | _ => simp [Field.same, narrowIndex_false]
  · simp [FlagsKept]
  · simp
  · simp
  · simp

/-- XCE with C = 1 enters emulation mode: M = X = 1, SH = 01 and XH = YH = 00. -/
theorem completesWith_xce_emulation {s : State} (hC : s.fC = true) :
    CompletesWith .xce s [.e, .p, .x, .y, .sp, .pc] 0x31 [] fun t =>
      t.pc = s.pc + 1 ∧ t.e = true ∧ t.fC = s.e ∧ t.fM = true ∧ t.fX = true ∧ t.sp = word 0x01 (lo s.sp) ∧
        t.x = word 0x00 (lo s.x) ∧ t.y = word 0x00 (lo s.y) := by
  have hexec := exec_xce s
  rw [hC] at hexec
  refine completesWith_of_registers hexec ?_ (by decide) ?_
    ⟨?_, ?_, ?_, fM_setE_true _, fX_setE_true _, ?_, narrowIndex_true _, narrowIndex_true _⟩
  · intro f hf
    cases f with
    | e | p | x | y | sp | pc => simp at hf
    | _ => simp [Field.same]
  · simp [FlagsKept, forcedP_and]
  · simp
  · simp
  · simp
  · simp

/-- Settles O34: XBA, and XCE in its two directions. -/
theorem exchanges : Obligations.Exchanges := by
  intro s
  exact ⟨completesWith_xba s, completesWith_xce_native, completesWith_xce_emulation⟩

end Sys2Proof.Machine

/-! PROOF. ADC and SBC in binary and decimal mode (41_arithmetic_logic.md R221 to R224), CMP, CPX and CPY (R228 to R230), and BIT
(R231). -/

namespace Sys2Proof.Machine

/-! ### Binary sums and differences -/

/-- An instruction that puts a sum: the accumulator and all four flags are those of the sum. -/
theorem completesWith_of_exec_putSum {i : Instr} {q : Sum} {n : Nat} {s : State}
    (h : exec i s = .next ((putSum s.wA q s).advance n)) :
    CompletesWith i s [.c, .p, .pc] 0xC3 [] fun t =>
      t.pc = s.pc + BitVec.ofNat 16 n ∧ t.c = (s.setA s.wA q.r).c ∧ t.fC = q.c ∧ t.fV = q.v ∧ t.fN = msb s.wA q.r ∧
        t.fZ = isZero s.wA q.r := by
  refine completesWith_of_registers h ?_ (by decide) ?_ ⟨?_, ?_, ?_, ?_, ?_, ?_⟩
  · intro f hf
    cases f with
    | c | p | pc => simp at hf
    | _ => simp [Field.same, putSum]
  · simp [FlagsKept, putSum]
  · simp [putSum]
  · simp [putSum]
  · simp [putSum]
  · simp [putSum]
  · simp [putSum]
  · simp [putSum]

theorem exec_adc_binary {i : Instr} {o : Operand} {s : State} (hmn : i.mnemonic = .adc) (ho : i.operand? = some o)
    (hD : s.fD = false) :
    exec i s = .next ((putSum s.wA (addC s.wA s.c (o.read s.wA s) s.fC) s).advance (o.len s.wA)) := by
  rw [exec_data i o s ho, hmn, dataMeaning, addWithCarry, addOperand, hD]
  rfl

theorem exec_sbc_binary {i : Instr} {o : Operand} {s : State} (hmn : i.mnemonic = .sbc) (ho : i.operand? = some o)
    (hD : s.fD = false) :
    exec i s = .next ((putSum s.wA (subC s.wA s.c (o.read s.wA s) s.fC) s).advance (o.len s.wA)) := by
  rw [exec_data i o s ho, hmn, dataMeaning, subtractWithBorrow, subtractOperand, hD]
  rfl

theorem hi_setA_of_w8 {s : State} (h : s.wA = .w8) (v : Word) : hi (s.setA s.wA v).c = hi s.c := by rw [h, hi_setA]

theorem toNat_bool (c : Bool) : c.toNat = if c then 1 else 0 := by cases c <;> rfl

/-- Settles O19: ADC puts the sum that `addC` computes. -/
theorem addBinary : Obligations.AddBinary := by
  intro i o s hmn ho hD w m sum
  refine (completesWith_of_exec_putSum (exec_adc_binary hmn ho hD)).imp fun t ⟨hpc, hc, hC, hV, hN, hZ⟩ => ?_
  rw [hc, trunc_setA, msb_setA, isZero_setA, addC_r, toNat_bool]
  exact ⟨hpc, rfl, fun narrow => hi_setA_of_w8 narrow _, by rw [hC, addC, toNat_bool], hV, hN, hZ⟩

/-- Settles O20: SBC puts the difference that `subC` computes. -/
theorem subtractBinary : Obligations.SubtractBinary := by
  intro i o s hmn ho hD w m borrow diff signed
  obtain ⟨hr, hcarry, hover⟩ := subC_spec w s.c m s.fC
  refine (completesWith_of_exec_putSum (exec_sbc_binary hmn ho hD)).imp fun t ⟨hpc, hc, hC, hV, hN, hZ⟩ => ?_
  rw [hc, trunc_setA, msb_setA, isZero_setA]
  exact ⟨hpc, hr, fun narrow => hi_setA_of_w8 narrow _, hC.trans hcarry, hV.trans hover, hN, hZ⟩

/-! ### Decimal mode -/

/-- A decimal result on valid digits: the accumulator, C, N and Z are those of the result, V is left open. -/
theorem completesWith_of_exec_putDecimal {i : Instr} {n : Int} {carry : Bool} {len : Nat} {s : State}
    (h : exec i s = .next ((putDecimal s.wA n carry s).advance len)) :
    CompletesWith i s [.c, .p, .pc, .draws] 0xC3 [] fun t =>
      t.pc = s.pc + BitVec.ofNat 16 len ∧ t.c = (s.setA s.wA (bcdOf s.wA n)).c ∧ t.fC = carry ∧
        t.fN = msb s.wA (bcdOf s.wA n) ∧ t.fZ = isZero s.wA (bcdOf s.wA n) := by
  refine completesWith_of_registers h ?_ (by decide) ?_ ⟨?_, ?_, ?_, ?_, ?_⟩
  · intro f hf
    cases f with
    | c | p | pc | draws => simp at hf
    | _ => simp [Field.same, putDecimal]
  · simp [FlagsKept, putDecimal]
  · simp [putDecimal]
  · simp [putDecimal]
  · simp [State.fC, putDecimal]
  · simp [State.fN, putDecimal]
  · simp [State.fZ, putDecimal]

@[simp] theorem putOpenDecimal_c (w : Width) (s : State) :
    (putOpenDecimal w s).c = (s.setA w (Config.bcdResult s.draws)).c := by simp [putOpenDecimal]

/-- A decimal operation on an invalid digit: the result and its flags are open, the width and everything else are not. -/
theorem completesWith_of_exec_putOpenDecimal {i : Instr} {len : Nat} {s : State}
    (h : exec i s = .next ((putOpenDecimal s.wA s).advance len)) :
    CompletesWith i s [.c, .p, .pc, .draws] 0xC3 [] fun t =>
      t.pc = s.pc + BitVec.ofNat 16 len ∧ (s.fM = true → hi t.c = hi s.c) := by
  refine completesWith_of_registers h ?_ (by decide) ?_ ⟨?_, ?_⟩
  · intro f hf
    cases f with
    | c | p | pc | draws => simp at hf
    | _ => simp [Field.same, putOpenDecimal]
  · simp [FlagsKept, putOpenDecimal]
  · simp [putOpenDecimal]
  · intro narrow
    rw [advance_c, putOpenDecimal_c, hi_setA_narrow narrow]

theorem exec_adc_decimal {i : Instr} {o : Operand} {s : State} (hmn : i.mnemonic = .adc) (ho : i.operand? = some o)
    (hD : s.fD = true) (ha : validBcd s.wA s.c = true) (hm : validBcd s.wA (o.read s.wA s) = true) :
    exec i s = .next ((putDecimal s.wA (decSum s.wA s.c (o.read s.wA s) s.fC)
      (decide (10 ^ bcdDigits s.wA ≤ decSum s.wA s.c (o.read s.wA s) s.fC)) s).advance (o.len s.wA)) := by
  rw [exec_data i o s ho, hmn, dataMeaning, addWithCarry, addOperand, hD, ha, hm]
  rfl

theorem exec_sbc_decimal {i : Instr} {o : Operand} {s : State} (hmn : i.mnemonic = .sbc) (ho : i.operand? = some o)
    (hD : s.fD = true) (ha : validBcd s.wA s.c = true) (hm : validBcd s.wA (o.read s.wA s) = true) :
    exec i s = .next ((putDecimal s.wA (decDiff s.wA s.c (o.read s.wA s) s.fC)
      (decide (0 ≤ decDiff s.wA s.c (o.read s.wA s) s.fC)) s).advance (o.len s.wA)) := by
  rw [exec_data i o s ho, hmn, dataMeaning, subtractWithBorrow, subtractOperand, hD, ha, hm]
  rfl

/-- ADC and SBC alike leave the result open where a digit of either operand is invalid. -/
theorem exec_decimal_open {i : Instr} {o : Operand} {s : State} (hmn : i.mnemonic = .adc ∨ i.mnemonic = .sbc)
    (ho : i.operand? = some o) (hD : s.fD = true)
    (hinvalid : validBcd s.wA s.c = false ∨ validBcd s.wA (o.read s.wA s) = false) :
    exec i s = .next ((putOpenDecimal s.wA s).advance (o.len s.wA)) := by
  have hboth : (validBcd s.wA s.c && validBcd s.wA (o.read s.wA s)) = false := by
    obtain h | h := hinvalid <;> rw [h]
    · rfl
    · exact Bool.and_false _
  rw [exec_data i o s ho]
  obtain hmn | hmn := hmn <;> rw [hmn]
  · rw [dataMeaning, addWithCarry, addOperand, hD, hboth]; rfl
  · rw [dataMeaning, subtractWithBorrow, subtractOperand, hD, hboth]; rfl

/-- A packed decimal result in the accumulator is valid and stands for the number modulo 10^digits. -/
theorem bcd_setA (s : State) (w : Width) (n : Int) :
    validBcd w (s.setA w (bcdOf w n)).c = true ∧ decOf w (s.setA w (bcdOf w n)).c = n % 10 ^ bcdDigits w := by
  have htrunc := trunc_setA s w (bcdOf w n)
  rw [validBcd_congr w _ _ htrunc, decOf_congr w _ _ htrunc]
  exact ⟨validBcd_bcdOf w n, decOf_bcdOf w n⟩

/-- What a decimal result on valid digits leaves, as R222 says it. -/
theorem completesWith_decimal {i : Instr} {n : Int} {carry : Bool} {len : Nat} {s : State}
    (h : exec i s = .next ((putDecimal s.wA n carry s).advance len)) :
    CompletesWith i s [.c, .p, .pc, .draws] 0xC3 [] fun t =>
      t.pc = s.pc + BitVec.ofNat 16 len ∧ validBcd s.wA t.c = true ∧ decOf s.wA t.c = n % 10 ^ bcdDigits s.wA ∧
        (s.wA = .w8 → hi t.c = hi s.c) ∧ t.fC = carry ∧ t.fN = msb s.wA t.c ∧ t.fZ = isZero s.wA t.c := by
  refine (completesWith_of_exec_putDecimal h).imp fun t ⟨hpc, hc, hC, hN, hZ⟩ => ?_
  obtain ⟨hvalid, hdec⟩ := bcd_setA s s.wA n
  rw [hc, msb_setA, isZero_setA]
  exact ⟨hpc, hvalid, hdec, fun narrow => hi_setA_of_w8 narrow _, hC, hN, hZ⟩

theorem decSum_eq (w : Width) (a m : Word) (c : Bool) : decSum w a m c = decOf w a + decOf w m + (if c then 1 else 0) := by
  cases c <;> rfl

theorem decDiff_eq (w : Width) (a m : Word) (c : Bool) : decDiff w a m c = decOf w a - decOf w m - (if c then 0 else 1) := by
  cases c <;> rfl

/-- Settles O21: on valid digits ADC and SBC put the packed decimal sum or difference. -/
theorem decimalValid : Obligations.DecimalValid := by
  intro i o s ho hD w m k ha hm n c hcase
  obtain ⟨hmn, rfl, rfl⟩ | ⟨hmn, rfl, rfl⟩ := hcase
  · rw [← decSum_eq]
    exact completesWith_decimal (exec_adc_decimal hmn ho hD ha hm)
  · rw [← decDiff_eq]
    exact completesWith_decimal (exec_sbc_decimal hmn ho hD ha hm)

/-- Settles O22: on an invalid digit the instruction completes with an open result. -/
theorem decimalInvalidCompletes : Obligations.DecimalInvalidCompletes := by
  intro i o s hmn ho hD hinvalid
  exact completesWith_of_exec_putOpenDecimal (exec_decimal_open hmn ho hD hinvalid)

/-! ### Compares -/

theorem trunc_cmpResult (w : Width) (a m : Word) : trunc w (cmpResult w a m) = cmpResult w a m := trunc_trunc _ _

/-- The wrapped difference of a compare as a number. -/
theorem cmpResult_toNat (w : Width) (a m : Word) :
    (cmpResult w a m).toNat = (2 ^ w.bits + (trunc w a).toNat - (trunc w m).toNat) % 2 ^ w.bits := by
  have ha := trunc_lt w a
  have hm := trunc_lt w m
  rw [cmpResult, trunc_toNat, BitVec.toNat_sub]
  cases w <;> simp only [Width.bits] at * <;> omega

theorem isZero_cmpResult (w : Width) (a m : Word) :
    isZero w (cmpResult w a m) = decide ((trunc w a).toNat = (trunc w m).toNat) := by
  have ha := trunc_lt w a
  have hm := trunc_lt w m
  rw [isZero_eq_decide, trunc_cmpResult, cmpResult_toNat, decide_eq_decide]
  cases w <;> simp only [Width.bits] at * <;> omega

theorem msb_cmpResult (w : Width) (a m : Word) :
    msb w (cmpResult w a m) =
      decide (2 ^ (w.bits - 1) ≤ (2 ^ w.bits + (trunc w a).toNat - (trunc w m).toNat) % 2 ^ w.bits) := by
  rw [msb_eq_decide, trunc_cmpResult, cmpResult_toNat]

/-- An instruction that runs the shared compare completes as R228 to R230 say. -/
theorem completesWith_of_exec_compareWith {i : Instr} {w : Width} {r : Word} {o : Operand} {s : State}
    (h : exec i s = .next (compareWith w r o s)) :
    CompletesWith i s [.p, .pc] 0x83 [] fun t =>
      t.pc = s.pc + BitVec.ofNat 16 (o.len w) ∧
        t.fC = decide ((trunc w (o.read w s)).toNat ≤ (trunc w r).toNat) ∧
        t.fZ = decide ((trunc w r).toNat = (trunc w (o.read w s)).toNat) ∧
        t.fN = decide (2 ^ (w.bits - 1) ≤
          (2 ^ w.bits + (trunc w r).toNat - (trunc w (o.read w s)).toNat) % 2 ^ w.bits) := by
  refine completesWith_of_registers h ?_ (by decide) ?_ ⟨?_, ?_, ?_, ?_⟩
  · intro f hf
    cases f with
    | p | pc => simp at hf
    | _ => simp [Field.same, compareWith]
  · simp [FlagsKept, compareWith]
  · simp [compareWith]
  · simp [compareWith, cmpCarry]
  · rw [← isZero_cmpResult]; simp [compareWith]
  · rw [← msb_cmpResult]; simp [compareWith]

/-- Settles O24: CMP, CPX and CPY run the shared compare on their register at its width. -/
theorem compare : Obligations.Compare := by
  intro i o s ho mn w r hmem hmn
  have hexec := exec_data i o s ho
  rw [hmn] at hexec
  simp only [List.mem_cons, Prod.mk.injEq, List.not_mem_nil, or_false] at hmem
  obtain ⟨rfl, rfl, rfl⟩ | ⟨rfl, rfl, rfl⟩ | ⟨rfl, rfl, rfl⟩ := hmem <;>
    exact completesWith_of_exec_compareWith hexec

/-! ### BIT -/

/-- BIT on memory writes N, V and Z. -/
theorem completesWith_of_exec_bitTest {i : Instr} {mode : MemMode} {s : State} (h : exec i s = .next (bitTest mode s)) :
    CompletesWith i s [.p, .pc] 0xC2 [] fun t =>
      t.pc = s.pc + BitVec.ofNat 16 mode.len ∧ t.fZ = isZero s.wA (s.c &&& (Operand.mem mode).read s.wA s) ∧
        t.fN = msb s.wA ((Operand.mem mode).read s.wA s) ∧ t.fV = msb2 s.wA ((Operand.mem mode).read s.wA s) := by
  refine completesWith_of_registers h ?_ (by decide) ?_ ⟨?_, ?_, ?_, ?_⟩
  · intro f hf
    cases f with
    | p | pc => simp at hf
    | _ => simp [Field.same, bitTest]
  · simp [FlagsKept, bitTest]
  · simp [bitTest]
  · simp [bitTest]
  · simp [bitTest]
  · simp [bitTest]

/-- The immediate BIT writes Z alone. -/
theorem completesWith_of_exec_bitTestImmediate {i : Instr} {v : Word} {s : State}
    (h : exec i s = .next (bitTestImmediate v s)) :
    CompletesWith i s [.p, .pc] 0xC2 [] fun t =>
      t.pc = s.pc + BitVec.ofNat 16 ((Operand.imm v).len s.wA) ∧ t.fZ = isZero s.wA (s.c &&& v) ∧ t.fN = s.fN ∧
        t.fV = s.fV := by
  refine completesWith_of_registers h ?_ (by decide) ?_ ⟨?_, ?_, ?_, ?_⟩
  · intro f hf
    cases f with
    | p | pc => simp at hf
    | _ => simp [Field.same, bitTestImmediate]
  · simp [FlagsKept, bitTestImmediate]
  · simp [bitTestImmediate]
  · simp [bitTestImmediate]
  · simp [bitTestImmediate]
  · simp [bitTestImmediate]

/-- What BIT finds zero does not depend on the part of an immediate beyond the width. -/
theorem isZero_and_trunc (w : Width) (a v : Word) : isZero w (a &&& trunc w v) = isZero w (a &&& v) := by
  cases w
  · rw [isZero_w8, isZero_w8, lo_and, lo_and, lo_trunc]
  · rfl

/-- Settles O25: BIT on memory and BIT immediate. -/
theorem bitTest_instructions : Obligations.BitTest := by
  intro i o s hmn ho m
  have hexec := exec_data i o s ho
  rw [hmn] at hexec
  cases o with
  | imm v =>
    refine (completesWith_of_exec_bitTestImmediate hexec).imp fun t ⟨hpc, hZ, hN, hV⟩ => ?_
    refine ⟨hpc, hZ.trans (isZero_and_trunc s.wA s.c v).symm, fun _ _ => ⟨hN, hV⟩, fun mode h => ?_⟩
    cases h
  | mem mode =>
    refine (completesWith_of_exec_bitTest hexec).imp fun t ⟨hpc, hZ, hN, hV⟩ => ?_
    refine ⟨hpc, hZ, fun v h => ?_, fun mode' h => ?_⟩
    · cases h
    · exact ⟨hN, hV⟩

end Sys2Proof.Machine

/-! PROOF. The read-modify-write instructions on memory: shifts and rotates (42_shift_rmw.md R240 to R244), INC and DEC
(41_arithmetic_logic.md R232, R233), TSB and TRB (R245, R246). -/

namespace Sys2Proof.Machine

/-! ### What a write-back leaves in memory -/

/-- A state with the memory of a write-back differs from the one before at the operand's bytes alone. -/
theorem memoryKept_of_writeBack {s t : State} {w : Width} {l : Loc} {v : Word} (h : t.mem = (s.writeBack w l v).mem) :
    MemoryKept (l.bytes w) s t := by
  intro a ha
  rw [readByte_congr _ _ h, readByte_writeBack_other s w l v a ha]

/-- The datum at the operand's location is the value written back, at its width. -/
theorem readLoc_of_writeBack {s t : State} {w : Width} {l : Loc} {v : Word} (h : t.mem = (s.writeBack w l v).mem) :
    t.readLoc w l = trunc w v := by
  rw [readLoc_congr (s.writeBack w l v) t w l fun a _ => readByte_congr _ _ h a, readLoc_writeBack]

/-- A datum read at a width has no bits beyond it. -/
theorem trunc_loadLoc (s : State) (k : CycleKind) (w : Width) (l : Loc) : trunc w (s.loadLoc k w l) = s.loadLoc k w l := by
  cases w
  · rw [State.loadLoc, trunc_w8, lo_zext]
  · rfl

/-! ### Shifts and rotates -/

theorem completesWith_of_exec_shiftMemory {i : Instr} {f : Width → Bool → Word → Shift} {m : MemMode} {s : State}
    (h : exec i s = .next (shiftMemory f m s)) :
    let q := f s.wA s.fC (s.loadLoc .locked s.wA (m.loc s))
    CompletesWith i s [.mem, .p, .pc] 0x83 ((m.loc s).bytes s.wA) fun t =>
      t.pc = s.pc + BitVec.ofNat 16 m.len ∧ t.readLoc s.wA (m.loc s) = trunc s.wA q.r ∧ t.fC = q.c ∧
        t.fN = msb s.wA q.r ∧ t.fZ = isZero s.wA q.r := by
  intro q
  have hmem : (shiftMemory f m s).mem = (s.writeBack s.wA (m.loc s) q.r).mem := by simp [shiftMemory, q]
  refine ⟨_, h, ?_, ?_, memoryKept_of_writeBack hmem, ?_, readLoc_of_writeBack hmem, ?_, ?_, ?_⟩
  · intro f hf
    cases f with
    | mem | p | pc => simp at hf
    | _ => simp [Field.same, shiftMemory]
  · simp [FlagsKept, shiftMemory]
  · simp [shiftMemory]
  · simp [shiftMemory, q]
  · simp [shiftMemory, q]
  · simp [shiftMemory, q]

/-- The memory forms run the shared shift of their mnemonic. -/
theorem exec_shiftMem {i : Instr} {f : Width → Bool → Word → Shift} {m : MemMode} {s : State}
    (ho : i.operand? = some (.mem m)) (hf : (i.mnemonic, f) ∈ [(Mnemonic.asl, asl), (.lsr, lsr), (.rol, rol), (.ror, ror)]) :
    exec i s = .next (shiftMemory f m s) := by
  rw [exec_data i (.mem m) s ho]
  simp only [List.mem_cons, Prod.mk.injEq, List.not_mem_nil, or_false] at hf
  obtain ⟨hmn, rfl⟩ | ⟨hmn, rfl⟩ | ⟨hmn, rfl⟩ | ⟨hmn, rfl⟩ := hf <;> rw [hmn] <;> rfl

/-- Settles O28: the operand's location takes the shifted value, C the bit shifted out. -/
theorem shiftMemory_instructions : Obligations.ShiftMemory := by
  intro i m s ho n c hshift
  rw [← trunc_loadLoc] at hshift
  obtain ⟨f, hf, hr, hc⟩ := shift_spec hshift
  refine (completesWith_of_exec_shiftMemory (exec_shiftMem ho hf)).imp fun t ⟨hpc, hloc, hC, hN, hZ⟩ => ?_
  exact ⟨hpc, by rw [hloc, hr], hC.trans hc, by rw [hN, msb_eq_decide, hr], by rw [hZ, isZero_eq_decide, hr]⟩

/-! ### Counts in memory -/

theorem completesWith_of_exec_stepMemory {i : Instr} {f : Width → Word → Word} {m : MemMode} {s : State}
    (h : exec i s = .next (stepMemory f m s)) :
    let r := f s.wA (s.loadLoc .locked s.wA (m.loc s))
    CompletesWith i s [.mem, .p, .pc] 0x82 ((m.loc s).bytes s.wA) fun t =>
      t.pc = s.pc + BitVec.ofNat 16 m.len ∧ t.readLoc s.wA (m.loc s) = trunc s.wA r ∧ t.fN = msb s.wA r ∧
        t.fZ = isZero s.wA r := by
  intro r
  have hmem : (stepMemory f m s).mem = (s.writeBack s.wA (m.loc s) r).mem := by simp [stepMemory, r]
  refine ⟨_, h, ?_, ?_, memoryKept_of_writeBack hmem, ?_, readLoc_of_writeBack hmem, ?_, ?_⟩
  · intro f hf
    cases f with
    | mem | p | pc => simp at hf
    | _ => simp [Field.same, stepMemory]
  · simp [FlagsKept, stepMemory]
  · simp [stepMemory]
  · simp [stepMemory, r]
  · simp [stepMemory, r]

/-- A count of a datum in memory, as numbers. -/
theorem completesWith_count {i : Instr} {f : Width → Word → Word} {k : Width → Nat} {m : MemMode} {s : State}
    (hf : Counts f k) (h : exec i s = .next (stepMemory f m s)) :
    let n := ((s.loadLoc .locked s.wA (m.loc s)).toNat + k s.wA) % 2 ^ s.wA.bits
    CompletesWith i s [.mem, .p, .pc] 0x82 ((m.loc s).bytes s.wA) fun t =>
      t.pc = s.pc + BitVec.ofNat 16 m.len ∧ (t.readLoc s.wA (m.loc s)).toNat = n ∧
        t.fN = decide (2 ^ (s.wA.bits - 1) ≤ n) ∧ t.fZ = decide (n = 0) := by
  intro n
  obtain ⟨hwidth, hvalue⟩ := hf s.wA (s.loadLoc .locked s.wA (m.loc s))
  rw [trunc_loadLoc] at hvalue
  refine (completesWith_of_exec_stepMemory h).imp fun t ⟨hpc, hloc, hN, hZ⟩ => ?_
  exact ⟨hpc, by rw [hloc, hwidth, hvalue], by rw [hN, msb_eq_decide, hwidth, hvalue],
    by rw [hZ, isZero_eq_decide, hwidth, hvalue]⟩

/-- Settles O29: INC and DEC count the datum at their location. -/
theorem countMemory : Obligations.CountMemory := by
  intro i m s ho w v n hcase
  have hexec := exec_data i (.mem m) s ho
  obtain ⟨hmn, rfl⟩ | ⟨hmn, rfl⟩ := hcase <;> rw [hmn] at hexec
  · exact completesWith_count counts_incr hexec
  · rw [Nat.add_sub_assoc (Nat.two_pow_pos _)]
    exact completesWith_count counts_decr hexec

/-! ### TSB and TRB -/

/-- An instruction that runs the shared test-and-set completes as R245 and R246 say. -/
theorem completesWith_of_exec_testBits {i : Instr} {f : Word → Word → Word} {m : MemMode} {s : State}
    (h : exec i s = .next (testBits f m s)) :
    let v := s.loadLoc .locked s.wA (m.loc s)
    CompletesWith i s [.mem, .p, .pc] 0x02 ((m.loc s).bytes s.wA) fun t =>
      t.pc = s.pc + BitVec.ofNat 16 m.len ∧ t.readLoc s.wA (m.loc s) = trunc s.wA (f v s.c) ∧
        t.fZ = isZero s.wA (s.c &&& v) := by
  intro v
  have hmem : (testBits f m s).mem = (s.writeBack s.wA (m.loc s) (f v s.c)).mem := by simp [testBits, v]
  refine ⟨_, h, ?_, ?_, memoryKept_of_writeBack hmem, ?_, readLoc_of_writeBack hmem, ?_⟩
  · intro f hf
    cases f with
    | mem | p | pc => simp at hf
    | _ => simp [Field.same, testBits]
  · simp [FlagsKept, testBits]
  · simp [testBits]
  · simp [testBits, v]

/-- Settles O30: TSB sets and TRB resets the accumulator's bits in the datum. -/
theorem testAndSetResetBits : Obligations.TestAndSetResetBits := by
  intro i m s ho v r hcase
  have hexec := exec_data i (.mem m) s ho
  obtain ⟨hmn, rfl⟩ | ⟨hmn, rfl⟩ := hcase <;> rw [hmn] at hexec
  · exact completesWith_of_exec_testBits (f := (· ||| ·)) hexec
  · exact completesWith_of_exec_testBits (f := fun m a => m &&& ~~~a) hexec

end Sys2Proof.Machine

/-! PROOF. Pushes and pulls of registers (44_stack.md R271 to R283), the writes of P (45_status.md R290, R298, R299) and RTI
(48_system.md R332). -/

namespace Sys2Proof.Machine

/-! ### Frames in sequence -/

theorem Field.same_trans {f : Field} {s t u : State} (h : f.same s t) (g : f.same t u) : f.same s u := by
  cases f <;> exact Eq.trans g h

/-- What two changes after each other change: what the one or the other does. -/
theorem OnlyChanges.trans {fs gs : List Field} {s t u : State} (h : OnlyChanges fs s t) (g : OnlyChanges gs t u) :
    OnlyChanges (fs ++ gs) s u := by
  intro f hf
  rw [List.mem_append, not_or] at hf
  exact Field.same_trans (h f hf.1) (g f hf.2)

theorem OnlyChanges.mono {fs gs : List Field} {s t : State} (h : OnlyChanges fs s t) (hsub : fs ⊆ gs) :
    OnlyChanges gs s t := fun f hf => h f fun hmem => hf (hsub hmem)

theorem OnlyChanges.refl (fs : List Field) (s : State) : OnlyChanges fs s s := by
  intro f _
  cases f <;> rfl

/-! ### Pushes -/

theorem onlyChanges_push8 (s : State) (v : Byte) : OnlyChanges [.sp, .mem] s (s.push8 v) := by
  intro f hf
  cases f with
  | sp | mem => simp at hf
  | _ => simp [Field.same]

theorem onlyChanges_push16 (s : State) (v : Word) : OnlyChanges [.sp, .mem] s (s.push16 v) :=
  ((onlyChanges_push8 s (hi v)).trans (onlyChanges_push8 _ (lo v))).mono (by decide)

theorem onlyChanges_advance (s : State) (n : Nat) : OnlyChanges [.pc] s (s.advance n) := by
  intro f hf
  cases f with
  | pc => simp at hf
  | _ => simp [Field.same]

theorem push8_memoryKept (s : State) (v : Byte) : MemoryKept [bank0 s.sp] s (s.push8 v) := by
  intro a ha
  rw [push8_readByte, if_neg (by simpa using ha)]

theorem push16_memoryKept (s : State) (v : Word) : MemoryKept [bank0 s.sp, bank0 (spAfterPush s 1)] s (s.push16 v) := by
  intro a ha
  simp only [List.mem_cons, List.not_mem_nil, or_false, not_or] at ha
  rw [push16_readByte, if_neg ha.2, if_neg ha.1]

/-- Two of the stack addresses of one frame are different ones. -/
theorem bank0_spAfterPush_ne (s : State) {j k : Nat} (hj : j < 256) (hk : k < 256) (h : j ≠ k) :
    bank0 (spAfterPush s j) ≠ bank0 (spAfterPush s k) := by
  rw [ne_eq, bank0_eq_iff]
  exact spAfterPush_ne s j k hj hk h

/-- S itself is none of the addresses below it. -/
theorem bank0_sp_ne (s : State) {k : Nat} (hk : k < 256) (h : 0 < k) : bank0 s.sp ≠ bank0 (spAfterPush s k) := by
  have := bank0_spAfterPush_ne s (j := 0) (k := k) (by omega) hk (by omega)
  rwa [spAfterPush_zero] at this

theorem push16_readByte_high (s : State) (v : Word) : (s.push16 v).readByte (bank0 s.sp) = hi v := by
  rw [push16_readByte, if_neg (bank0_sp_ne s (by omega) (by omega)), if_pos rfl]

theorem push16_readByte_low (s : State) (v : Word) : (s.push16 v).readByte (bank0 (spAfterPush s 1)) = lo v := by
  rw [push16_readByte, if_pos rfl]

/-- A one-byte push instruction. -/
theorem completesWith_of_exec_push8 {i : Instr} {v : Byte} {s : State} (h : exec i s = .next ((s.push8 v).advance 1)) :
    CompletesWith i s [.sp, .mem, .pc] 0x00 [bank0 s.sp] fun t =>
      t.pc = s.pc + 1 ∧ t.sp = spAfterPush s 1 ∧ t.readByte (bank0 s.sp) = v := by
  refine ⟨_, h, (onlyChanges_push8 s v).trans (onlyChanges_advance _ 1), ?_, ?_, ?_, ?_, ?_⟩
  · simp [FlagsKept]
  · intro a ha
    rw [advance_readByte, push8_memoryKept s v a ha]
  · simp
  · rw [advance_sp, push8_sp_eq]
  · rw [advance_readByte, push8_readByte, if_pos rfl]

/-- A two-byte push instruction. -/
theorem completesWith_of_exec_push16 {i : Instr} {v : Word} {s : State} (h : exec i s = .next ((s.push16 v).advance 1)) :
    CompletesWith i s [.sp, .mem, .pc] 0x00 [bank0 s.sp, bank0 (spAfterPush s 1)] fun t =>
      t.pc = s.pc + 1 ∧ t.sp = spAfterPush s 2 ∧ t.readByte (bank0 s.sp) = hi v ∧
        t.readByte (bank0 (spAfterPush s 1)) = lo v := by
  refine ⟨_, h, (onlyChanges_push16 s v).trans (onlyChanges_advance _ 1), ?_, ?_, ?_, ?_, ?_, ?_⟩
  · simp [FlagsKept]
  · intro a ha
    rw [advance_readByte, push16_memoryKept s v a ha]
  · simp
  · rw [advance_sp, push16_sp_eq]
  · rw [advance_readByte, push16_readByte_high]
  · rw [advance_readByte, push16_readByte_low]

theorem exec_pha (s : State) : exec .pha s = .next (push s.wA s.c s) := rfl
theorem exec_phx (s : State) : exec .phx s = .next (push s.wX s.x s) := rfl
theorem exec_phy (s : State) : exec .phy s = .next (push s.wX s.y s) := rfl
theorem exec_phb (s : State) : exec .phb s = .next ((s.push8 s.dbr).advance 1) := rfl
theorem exec_phk (s : State) : exec .phk s = .next ((s.push8 s.pbr).advance 1) := rfl
theorem exec_php (s : State) :
    exec .php s = .next ((s.push8 (if s.e then s.p ||| 0x30 else s.p)).advance 1) := rfl

/-- A push of a register at a width, one byte or two. -/
theorem completesWith_of_exec_push {i : Instr} {w : Width} {v : Word} {s : State} (h : exec i s = .next (push w v s)) :
    (w = .w8 → CompletesWith i s [.sp, .mem, .pc] 0x00 [bank0 s.sp] fun t =>
      t.pc = s.pc + 1 ∧ t.sp = spAfterPush s 1 ∧ t.readByte (bank0 s.sp) = lo v) ∧
    (w = .w16 → CompletesWith i s [.sp, .mem, .pc] 0x00 [bank0 s.sp, bank0 (spAfterPush s 1)] fun t =>
      t.pc = s.pc + 1 ∧ t.sp = spAfterPush s 2 ∧ t.readByte (bank0 s.sp) = hi v ∧
        t.readByte (bank0 (spAfterPush s 1)) = lo v) := by
  constructor <;> intro hw <;> rw [hw] at h
  · exact completesWith_of_exec_push8 h
  · exact completesWith_of_exec_push16 h

/-- Settles O35: the register pushes at their width, and the byte pushes. -/
theorem pushes : Obligations.Pushes := by
  intro s top next
  simp only [List.mem_cons, Prod.mk.injEq, List.not_mem_nil, or_false]
  constructor
  · rintro i w v (⟨rfl, rfl, rfl⟩ | ⟨rfl, rfl, rfl⟩ | ⟨rfl, rfl, rfl⟩)
    · exact completesWith_of_exec_push (exec_pha s)
    · exact completesWith_of_exec_push (exec_phx s)
    · exact completesWith_of_exec_push (exec_phy s)
  · rintro i v (⟨rfl, rfl⟩ | ⟨rfl, rfl⟩ | ⟨rfl, rfl⟩)
    · exact completesWith_of_exec_push8 (exec_phb s)
    · exact completesWith_of_exec_push8 (exec_phk s)
    · exact completesWith_of_exec_push8 (exec_php s)

/-! ### Pulls -/

theorem pull_narrow (s : State) :
    (s.pull .w8).1 = zext (s.memRead .data (bank0 (spAfterPull s 1))) ∧ (s.pull .w8).2.sp = spAfterPull s 1 := by
  rw [pull_w8]
  exact ⟨congrArg zext (pull8_value s), pull8_sp_eq s⟩

theorem pull_wide (s : State) :
    (s.pull .w16).1 =
        word (s.memRead .data (bank0 (spAfterPull s 2))) (s.memRead .data (bank0 (spAfterPull s 1))) ∧
      (s.pull .w16).2.sp = spAfterPull s 2 :=
  ⟨pull16_value s, pull16_sp_eq s⟩

/-- N and Z of a byte pulled. -/
theorem msb_zext (b : Byte) : msb .w8 (zext b) = b.msb := by rw [msb_w8, lo_zext]
theorem isZero_zext (b : Byte) : isZero .w8 (zext b) = decide (b = 0x00) := by rw [isZero_w8, lo_zext]

theorem completesWith_pla (s : State) :
    let v := (s.pull s.wA).1
    CompletesWith .pla s [.c, .sp, .p, .pc] 0x82 [] fun t =>
      t.pc = s.pc + 1 ∧ t.sp = (s.pull s.wA).2.sp ∧ t.c = (s.setA s.wA v).c ∧ t.fN = msb s.wA v ∧
        t.fZ = isZero s.wA v := by
  intro v
  have hexec : exec .pla s = .next ((((s.pull s.wA).2.setA s.wA v).setNZ s.wA v).advance 1) := rfl
  refine completesWith_of_registers hexec ?_ (by decide) ?_ ⟨?_, ?_, ?_, ?_, ?_⟩
  · intro f hf
    cases f with
    | c | sp | p | pc => simp at hf
    | _ => simp [Field.same]
  · simp [FlagsKept]
  · simp
  · simp
  · cases s.wA <;> simp
  · simp
  · simp

theorem completesWith_plx (s : State) :
    let v := (s.pull s.wX).1
    CompletesWith .plx s [.x, .sp, .p, .pc] 0x82 [] fun t =>
      t.pc = s.pc + 1 ∧ t.sp = (s.pull s.wX).2.sp ∧ t.x = trunc s.wX v ∧ t.fN = msb s.wX v ∧ t.fZ = isZero s.wX v := by
  intro v
  have hexec : exec .plx s = .next ((((s.pull s.wX).2.setX s.wX v).setNZ s.wX v).advance 1) := rfl
  refine completesWith_of_registers hexec ?_ (by decide) ?_ ⟨?_, ?_, ?_, ?_, ?_⟩
  · intro f hf
    cases f with
    | x | sp | p | pc => simp at hf
    | _ => simp [Field.same]
  · simp [FlagsKept]
  · simp
  · simp
  · simp
  · simp
  · simp

theorem completesWith_ply (s : State) :
    let v := (s.pull s.wX).1
    CompletesWith .ply s [.y, .sp, .p, .pc] 0x82 [] fun t =>
      t.pc = s.pc + 1 ∧ t.sp = (s.pull s.wX).2.sp ∧ t.y = trunc s.wX v ∧ t.fN = msb s.wX v ∧ t.fZ = isZero s.wX v := by
  intro v
  have hexec : exec .ply s = .next ((((s.pull s.wX).2.setY s.wX v).setNZ s.wX v).advance 1) := rfl
  refine completesWith_of_registers hexec ?_ (by decide) ?_ ⟨?_, ?_, ?_, ?_, ?_⟩
  · intro f hf
    cases f with
    | y | sp | p | pc => simp at hf
    | _ => simp [Field.same]
  · simp [FlagsKept]
  · simp
  · simp
  · simp
  · simp
  · simp

/-- PLX and PLY alike, by the field and the register they write. -/
theorem completesWith_pullIndex {i : Instr} {r : Field} {reg : State → Word}
    (h : (i, r, reg) = (.plx, .x, State.x) ∨ (i, r, reg) = (.ply, .y, State.y)) (s : State) :
    let v := (s.pull s.wX).1
    CompletesWith i s [r, .sp, .p, .pc] 0x82 [] fun t =>
      t.pc = s.pc + 1 ∧ t.sp = (s.pull s.wX).2.sp ∧ reg t = trunc s.wX v ∧ t.fN = msb s.wX v ∧ t.fZ = isZero s.wX v := by
  obtain h | h := h <;> simp only [Prod.mk.injEq] at h <;> obtain ⟨rfl, rfl, rfl⟩ := h
  · exact completesWith_plx s
  · exact completesWith_ply s

theorem completesWith_plb (s : State) :
    let b := s.memRead .data (bank0 (spAfterPull s 1))
    CompletesWith .plb s [.dbr, .sp, .p, .pc] 0x82 [] fun t =>
      t.pc = s.pc + 1 ∧ t.sp = spAfterPull s 1 ∧ t.dbr = b ∧ t.fN = b.msb ∧ t.fZ = decide (b = 0x00) := by
  intro b
  have hexec : exec .plb s = .next (((s.pull8.2.setDbr s.pull8.1).setNZ .w8 (zext s.pull8.1)).advance 1) := rfl
  rw [pull8_value] at hexec
  refine completesWith_of_registers hexec ?_ (by decide) ?_ ⟨?_, ?_, ?_, ?_, ?_⟩
  · intro f hf
    cases f with
    | dbr | sp | p | pc => simp at hf
    | _ => simp [Field.same]
  · simp [FlagsKept]
  · simp
  · rw [advance_sp, setNZ_sp, setDbr_sp, pull8_sp_eq]
  · simp [b]
  · simp [msb_zext, b]
  · simp [isZero_zext, b]

theorem completesWith_pld (s : State) :
    let v := word (s.memRead .data (bank0 (s.sp + 2))) (s.memRead .data (bank0 (s.sp + 1)))
    CompletesWith .pld s [.d, .sp, .p, .pc] 0x82 [] fun t =>
      t.pc = s.pc + 1 ∧ t.d = v ∧ t.fN = v.msb ∧ t.fZ = decide (v = 0x0000) ∧
        (s.e = false → t.sp = s.sp + 2) ∧ (s.e = true → t.sp = word 0x01 (lo (s.sp + 2))) := by
  intro v
  have hexec : exec .pld s = .next ((((s.pullN16.2.setDirect s.pullN16.1).setNZ .w16 s.pullN16.1).fixSh).advance 1) := rfl
  rw [pullN16_value] at hexec
  have two_higher : s.sp + 1#16 + 1#16 = s.sp + 2#16 := by bv_omega
  refine completesWith_of_registers hexec ?_ (by decide) ?_ ⟨?_, ?_, ?_, ?_, ?_, ?_⟩
  · intro f hf
    cases f with
    | d | sp | p | pc => simp at hf
    | _ => simp [Field.same]
  · simp [FlagsKept]
  · simp
  · simp [v]
  · simp [State.fN, msb_w16, v]
  · simp [State.fZ, isZero_w16, v]
  · intro native
    simp [native, two_higher]
  · intro emulation
    simp [emulation, two_higher]

/-- Settles O37: each pull takes its value at the width of its register. -/
theorem pulls : Obligations.Pulls := by
  intro s b1 b2 v
  refine ⟨?_, ?_, ?_, completesWith_plb s, completesWith_pld s⟩
  · intro narrow
    refine (completesWith_pla s).imp fun t ⟨hpc, hsp, hc, hN, hZ⟩ => ?_
    rw [wA_narrow narrow, (pull_narrow s).1] at hc hN hZ
    rw [wA_narrow narrow, (pull_narrow s).2] at hsp
    exact ⟨hpc, hsp, by rw [hc, setA_value_w8, lo_zext], hN.trans (msb_zext _), hZ.trans (isZero_zext _)⟩
  · intro wide
    refine (completesWith_pla s).imp fun t ⟨hpc, hsp, hc, hN, hZ⟩ => ?_
    rw [wA_wide wide, (pull_wide s).1] at hc hN hZ
    rw [wA_wide wide, (pull_wide s).2] at hsp
    exact ⟨hpc, hsp, by rw [hc, setA_value_w16], by rw [hN, msb_w16, msb_word], hZ.trans (isZero_w16 _)⟩
  · intro i r reg hreg
    constructor
    · intro narrow
      refine (completesWith_pullIndex hreg s).imp fun t ⟨hpc, hsp, hx, hN, hZ⟩ => ?_
      rw [wX_narrow narrow, (pull_narrow s).1] at hx hN hZ
      rw [wX_narrow narrow, (pull_narrow s).2] at hsp
      exact ⟨hpc, hsp, by rw [hx, trunc_w8, lo_zext]; rfl, hN.trans (msb_zext _), hZ.trans (isZero_zext _)⟩
    · intro wide
      refine (completesWith_pullIndex hreg s).imp fun t ⟨hpc, hsp, hx, hN, hZ⟩ => ?_
      rw [wX_wide wide, (pull_wide s).1] at hx hN hZ
      rw [wX_wide wide, (pull_wide s).2] at hsp
      exact ⟨hpc, hsp, hx, by rw [hN, msb_w16, msb_word], hZ.trans (isZero_w16 _)⟩

/-! ### The write of P -/

theorem onlyChanges_pull8 (s : State) : OnlyChanges [.sp] s s.pull8.2 := by
  intro f hf
  cases f with
  | sp => simp at hf
  | _ => simp [Field.same]

theorem onlyChanges_pull16 (s : State) : OnlyChanges [.sp] s s.pull16.2 :=
  ((onlyChanges_pull8 s).trans (onlyChanges_pull8 _)).mono (by decide)

theorem onlyChanges_writeP (s : State) (v : Byte) : OnlyChanges [.p, .x, .y] s (s.writeP v) := by
  intro f hf
  cases f with
  | p | x | y => simp at hf
  | _ => simp [Field.same]

/-- The index registers after a write of P are those before it, or their low bytes where P.X is then 1. -/
theorem writeP_index (s : State) (v : Byte) :
    ((s.writeP v).fX = true → (s.writeP v).x = word 0x00 (lo s.x) ∧ (s.writeP v).y = word 0x00 (lo s.y)) ∧
      ((s.writeP v).fX = false → (s.writeP v).x = s.x ∧ (s.writeP v).y = s.y) := by
  have hX : (s.writeP v).fX = (forcedP s.e v).getLsbD 4 := rfl
  rw [hX, writeP_x_value, writeP_y_value]
  constructor <;> intro h <;> rw [h] <;> exact ⟨rfl, rfl⟩

theorem flagsKept_all (s t : State) : FlagsKept 0xFF s t := by simp [FlagsKept]

/-- REP, SEP and PLP write P and move PC on, PLP after its pull. -/
theorem completesWith_of_exec_writeP {i : Instr} {s u : State} {v : Byte} {n : Nat} (hu : OnlyChanges [.sp] s u)
    (h : exec i s = .next ((u.writeP v).advance n)) :
    CompletesWith i s [.p, .x, .y, .sp, .pc] 0xFF [] fun t =>
      t.pc = s.pc + BitVec.ofNat 16 n ∧ t.sp = u.sp ∧ t.p = (if s.e then v ||| 0x30 else v) ∧
        (t.fX = true → t.x = word 0x00 (lo s.x) ∧ t.y = word 0x00 (lo s.y)) ∧
        (t.fX = false → t.x = s.x ∧ t.y = s.y) := by
  have hframe := (hu.trans (onlyChanges_writeP u v)).trans (onlyChanges_advance _ n)
  have he : u.e = s.e := hu .e (by decide)
  have hx : u.x = s.x := hu .x (by decide)
  have hy : u.y = s.y := hu .y (by decide)
  have hpc : u.pc = s.pc := hu .pc (by decide)
  refine completesWith_of_registers h (hframe.mono (by decide)) (by decide) (flagsKept_all _ _) ⟨?_, ?_, ?_, ?_⟩
  · rw [advance_value, writeP_pc, hpc]
  · simp
  · rw [advance_p, writeP_value, he, forcedP]; rfl
  · rw [← hx, ← hy]
    exact writeP_index u v

theorem exec_rep (mask : Byte) (s : State) : exec (.rep mask) s = .next ((s.writeP (s.p &&& ~~~mask)).advance 2) := rfl
theorem exec_sep (mask : Byte) (s : State) : exec (.sep mask) s = .next ((s.writeP (s.p ||| mask)).advance 2) := rfl
theorem exec_plp (s : State) :
    exec .plp s = .next ((s.pull8.2.writeP (s.memRead .data (bank0 (spAfterPull s 1)))).advance 1) := by
  rw [← pull8_value]
  rfl

/-- Settles O39: REP, SEP and PLP write P, each its own value. -/
theorem writeStatus : Obligations.WriteStatus := by
  rintro s i v sp pc (⟨mask, rfl, rfl, rfl, rfl⟩ | ⟨mask, rfl, rfl, rfl, rfl⟩ | ⟨rfl, rfl, rfl, rfl⟩)
  · exact completesWith_of_exec_writeP (OnlyChanges.refl _ s) (exec_rep mask s)
  · exact completesWith_of_exec_writeP (OnlyChanges.refl _ s) (exec_sep mask s)
  · rw [← pull8_sp_eq]
    exact completesWith_of_exec_writeP (onlyChanges_pull8 s) (exec_plp s)

end Sys2Proof.Machine

/-! PROOF. Branches and jumps (46_control_transfer.md R300 to R312), calls and returns (R313 to R316), and block moves
(47_block_move.md R320 to R322). -/

namespace Sys2Proof.Machine

/-! ### Branches -/

theorem onlyChanges_jump (s : State) (v : Word) : OnlyChanges [.pc] s (s.jump v) := by
  intro f hf
  cases f with
  | pc => simp at hf
  | _ => simp [Field.same]

/-- An instruction that only moves PC. -/
theorem completesWith_of_exec_jump {i : Instr} {s : State} {v : Word} (h : exec i s = .next (s.jump v)) :
    CompletesWith i s [.pc] 0x00 [] fun t => t.pc = v :=
  completesWith_of_noFlags h (onlyChanges_jump s v) (by decide) (by decide) rfl

/-- An instruction that runs the shared branch completes as R300 says. -/
theorem completesWith_of_exec_branch {i : Instr} {s : State} {cond : Bool} {off : Byte}
    (h : exec i s = .next (branch cond off s)) :
    CompletesWith i s [.pc] 0x00 [] fun t =>
      (cond = true → (t.pc.toNat : Int) = (s.pc.toNat + 2 + off.toInt) % 65536) ∧
        (cond = false → t.pc.toNat = (s.pc.toNat + 2) % 65536) := by
  refine (completesWith_of_exec_jump h).imp fun t hpc => ⟨fun taken => ?_, fun untaken => ?_⟩
  · rw [hpc, if_pos taken, relTarget_toNat]
  · rw [hpc, if_neg (by simp [untaken]), BitVec.toNat_add]
    rfl

/-- Each relative branch runs the shared branch on its own condition (R301 to R309). -/
theorem exec_branch {s : State} {off : Byte} {i : Instr} {cond : Bool}
    (h : (i, cond) ∈ [(.bcc off, !s.fC), (.bcs off, s.fC), (.beq off, s.fZ), (.bmi off, s.fN), (.bne off, !s.fZ),
      (.bpl off, !s.fN), (.bvc off, !s.fV), (.bvs off, s.fV), (.bra off, true)]) :
    exec i s = .next (branch cond off s) := by
  simp only [List.mem_cons, Prod.mk.injEq, List.not_mem_nil, or_false] at h
  obtain ⟨rfl, rfl⟩ | ⟨rfl, rfl⟩ | ⟨rfl, rfl⟩ | ⟨rfl, rfl⟩ | ⟨rfl, rfl⟩ | ⟨rfl, rfl⟩ | ⟨rfl, rfl⟩ | ⟨rfl, rfl⟩ |
    ⟨rfl, rfl⟩ := h <;> rfl

theorem exec_brl (off : Word) (s : State) : exec (.brl off) s = .next (s.jump (relLongTarget s off)) := rfl

/-- Settles O40: the nine branches run the shared branch, BRL jumps to its target. -/
theorem branches : Obligations.Branches := by
  intro s
  constructor
  · intro off i cond h
    exact completesWith_of_exec_branch (exec_branch h)
  · intro off
    refine (completesWith_of_exec_jump (exec_brl off s)).imp fun t hpc => ?_
    rw [hpc, relLongTarget_toNat]

/-! ### Jumps -/

theorem onlyChanges_setPbr (s : State) (b : Byte) : OnlyChanges [.pbr] s (s.setPbr b) := by
  intro f hf
  cases f with
  | pbr => simp at hf
  | _ => simp [Field.same]

/-- An instruction that only moves PC and PBR. -/
theorem completesWith_of_exec_jumpLong {i : Instr} {s : State} {v : Word} {b : Byte}
    (h : exec i s = .next ((s.jump v).setPbr b)) : CompletesWith i s [.pc, .pbr] 0x00 [] fun t => t.pc = v ∧ t.pbr = b :=
  completesWith_of_noFlags h ((onlyChanges_jump s v).trans (onlyChanges_setPbr _ b)) (by decide) (by decide) ⟨rfl, rfl⟩

theorem exec_jmpAbs (aa : Word) (s : State) : exec (.jmpAbs aa) s = .next (s.jump aa) := rfl

theorem exec_jmpLong (al : Addr) (s : State) :
    exec (.jmpLong al) s = .next ((s.jump (al.setWidth 16)).setPbr (al.extractLsb' 16 8)) := by
  rw [← offOf_eq_setWidth]
  rfl

theorem exec_jmpAbsInd (aa : Word) (s : State) : exec (.jmpAbsInd aa) s = .next (s.jump (s.readAbsInd aa)) := rfl

theorem exec_jmpAbsIndX (aa : Word) (s : State) : exec (.jmpAbsIndX aa) s = .next (s.jump (s.readAbsIndX aa)) := rfl

theorem exec_jml (aa : Word) (s : State) :
    exec (.jml aa) s = .next ((s.jump (s.readAbsInd aa)).setPbr (s.readAbsIndBank aa)) := rfl

/-- Settles O41: where each jump takes PC, and PBR, from. -/
theorem jumps : Obligations.Jumps := by
  refine ⟨?_, ?_, ?_⟩
  · intro f aa al
    simp only [List.map, encode, wordBytes, addrBytes, offOf_eq_setWidth]
    rfl
  · intro s aa al
    rfl
  · intro s aa al
    exact ⟨completesWith_of_exec_jump (exec_jmpAbs aa s), completesWith_of_exec_jumpLong (exec_jmpLong al s),
      completesWith_of_exec_jump (exec_jmpAbsInd aa s), completesWith_of_exec_jump (exec_jmpAbsIndX aa s),
      completesWith_of_exec_jumpLong (exec_jml aa s)⟩

/-! ### Calls -/

theorem onlyChanges_pushN8 (s : State) (v : Byte) : OnlyChanges [.sp, .mem] s (s.pushN8 v) := by
  intro f hf
  cases f with
  | sp | mem => simp at hf
  | _ => simp [Field.same]

theorem onlyChanges_pushN16 (s : State) (v : Word) : OnlyChanges [.sp, .mem] s (s.pushN16 v) :=
  ((onlyChanges_pushN8 s (hi v)).trans (onlyChanges_pushN8 _ (lo v))).mono (by decide)

theorem onlyChanges_fixSh (s : State) : OnlyChanges [.sp] s s.fixSh := by
  intro f hf
  cases f with
  | sp => simp at hf
  | _ => simp [Field.same]

/-- S with SH = 01 in emulation mode, as the statements say it. -/
theorem forcedSp_cases (e : Bool) (v : Word) :
    (e = false → forcedSp e v = v) ∧ (e = true → forcedSp e v = word 0x01 (lo v)) := by
  constructor <;> intro h <;> rw [h] <;> rfl

/-- A byte of the instruction read again after some of its own pushes: where the instruction holds the byte the decoder read,
the refetch gets what that address reads as now (log 11). -/
theorem refetch_eq {old new : State} {k : Nat} {b : Byte} (hk : k ≠ 0) (h : old.fetchByte k = b) :
    refetch old new k b = new.memRead .program (addr old.pbr (old.pc + BitVec.ofNat 16 k)) := by
  rw [State.fetchByte, if_neg hk] at h
  rw [refetch, h]
  split
  · next hsame => exact hsame.symm
  · rfl

theorem exec_jsrAbs (aa : Word) (s : State) : exec (.jsrAbs aa) s = .next ((s.push16 (s.pc + 2)).jump aa) := rfl

theorem completesWith_jsrAbs (aa : Word) (s : State) :
    CompletesWith (.jsrAbs aa) s [.sp, .mem, .pc] 0x00 [bank0 s.sp, bank0 (spAfterPush s 1)] fun t =>
      t.pc = aa ∧ t.sp = spAfterPush s 2 ∧ t.readByte (bank0 s.sp) = hi (s.pc + 2) ∧
        t.readByte (bank0 (spAfterPush s 1)) = lo (s.pc + 2) := by
  have hframe := (onlyChanges_push16 s (s.pc + 2)).trans (onlyChanges_jump _ aa)
  refine ⟨_, exec_jsrAbs aa s, hframe, flagsKept_of_onlyChanges hframe (by decide) _, ?_, rfl, ?_, ?_, ?_⟩
  · intro a ha
    rw [jump_readByte, push16_memoryKept s _ a ha]
  · rw [jump_sp, push16_sp_eq]
  · rw [jump_readByte, push16_readByte_high]
  · rw [jump_readByte, push16_readByte_low]

/-- JSR `(a,x)` pushes its return address with 16-bit arithmetic and jumps through a pointer. -/
theorem completesWith_of_exec_callPointer {i : Instr} {s : State} {v target : Word}
    (h : exec i s = .next (((s.pushN16 v).jump target).fixSh)) :
    CompletesWith i s [.sp, .mem, .pc] 0x00 [bank0 s.sp, bank0 (s.sp - 1)] fun t =>
      t = ((s.pushN16 v).jump target).fixSh ∧ t.readByte (bank0 s.sp) = hi v ∧ t.readByte (bank0 (s.sp - 1)) = lo v ∧
        (s.e = false → t.sp = s.sp - 2) ∧ (s.e = true → t.sp = word 0x01 (lo (s.sp - 2))) := by
  have hframe := ((onlyChanges_pushN16 s v).trans (onlyChanges_jump _ target)).trans (onlyChanges_fixSh _)
  have two_lower : s.sp - 1 - 1 = s.sp - 2 := by bv_omega
  have hframe := hframe.mono (gs := [.sp, .mem, .pc]) (by decide)
  refine ⟨_, h, hframe, flagsKept_of_onlyChanges hframe (by decide) _, ?_, rfl, ?_, ?_, ?_⟩
  · intro a ha
    rw [fixSh_readByte, jump_readByte, pushN16_memoryKept s v a ha]
  · rw [fixSh_readByte, jump_readByte, pushN16_readByte_high]
  · rw [fixSh_readByte, jump_readByte, pushN16_readByte_low]
  · rw [fixSh_value, jump_e, pushN16_e, jump_sp, pushN16_sp, two_lower]
    exact forcedSp_cases s.e (s.sp - 2)

theorem exec_jsrAbsIndX (aa : Word) (s : State) :
    exec (.jsrAbsIndX aa) s = .next (((s.pushN16 (s.pc + 2)).jump ((s.pushN16 (s.pc + 2)).readAbsIndX
      (word (refetch s (s.pushN16 (s.pc + 2)) 2 (hi aa)) (lo aa)))).fixSh) := rfl

/-- The frame of JSL: PBR, then the address of its last byte, below it. -/
def callLongFrame (s : State) : State := (s.pushN8 s.pbr).pushN16 (s.pc + 3)

theorem callLongFrame_readByte (s : State) (a : Addr) :
    (callLongFrame s).readByte a =
      if a = bank0 (s.sp - 2) then lo (s.pc + 3) else if a = bank0 (s.sp - 1) then hi (s.pc + 3)
      else if a = bank0 s.sp then s.pbr else s.readByte a := by
  have two_lower : s.sp - 1 - 1 = s.sp - 2 := by bv_omega
  rw [callLongFrame, pushN16_readByte, pushN8_readByte, pushN8_sp]
  rw [two_lower]

theorem exec_jsl (al : Addr) (s : State) :
    exec (.jsl al) s = .next ((((callLongFrame s).jump (al.setWidth 16)).setPbr
      (refetch s (s.pushN8 s.pbr) 3 (al.extractLsb' 16 8))).fixSh) := by
  rw [← offOf_eq_setWidth]
  rfl

theorem onlyChanges_callLongFrame (s : State) : OnlyChanges [.sp, .mem] s (callLongFrame s) :=
  ((onlyChanges_pushN8 s s.pbr).trans (onlyChanges_pushN16 _ (s.pc + 3))).mono (by decide)

/-- JSL, whatever memory holds at the instruction. -/
theorem completesWith_jsl (al : Addr) (s : State) :
    CompletesWith (.jsl al) s [.sp, .mem, .pc, .pbr] 0x00 [bank0 s.sp, bank0 (s.sp - 1), bank0 (s.sp - 2)] fun t =>
      t.pc = al.setWidth 16 ∧ t.pbr = refetch s (s.pushN8 s.pbr) 3 (al.extractLsb' 16 8) ∧
        t.readByte (bank0 s.sp) = s.pbr ∧ t.readByte (bank0 (s.sp - 1)) = hi (s.pc + 3) ∧
        t.readByte (bank0 (s.sp - 2)) = lo (s.pc + 3) ∧ (s.e = false → t.sp = s.sp - 3) ∧
        (s.e = true → t.sp = word 0x01 (lo (s.sp - 3))) := by
  have hpushes := onlyChanges_callLongFrame s
  have hframe := ((hpushes.trans (onlyChanges_jump _ (al.setWidth 16))).trans (onlyChanges_setPbr _
    (refetch s (s.pushN8 s.pbr) 3 (al.extractLsb' 16 8)))).trans (onlyChanges_fixSh _)
  have hframe := hframe.mono (gs := [.sp, .mem, .pc, .pbr]) (by decide)
  have apart1 : bank0 s.sp ≠ bank0 (s.sp - 1) := by rw [ne_eq, bank0_eq_iff]; bv_omega
  have apart2 : bank0 s.sp ≠ bank0 (s.sp - 2) := by rw [ne_eq, bank0_eq_iff]; bv_omega
  have apart12 : bank0 (s.sp - 1) ≠ bank0 (s.sp - 2) := by rw [ne_eq, bank0_eq_iff]; bv_omega
  have three_lower : s.sp - 1 - 1 - 1 = s.sp - 3 := by bv_omega
  have hsp : (callLongFrame s).sp = s.sp - 3 := three_lower
  have he : (callLongFrame s).e = s.e := hpushes .e (by decide)
  refine ⟨_, exec_jsl al s, hframe, flagsKept_of_onlyChanges hframe (by decide) _, ?_, rfl, rfl, ?_, ?_, ?_, ?_⟩
  · intro a ha
    simp only [List.mem_cons, List.not_mem_nil, or_false, not_or] at ha
    rw [fixSh_readByte, setPbr_readByte, jump_readByte, callLongFrame_readByte, if_neg ha.2.2, if_neg ha.2.1,
      if_neg ha.1]
  · rw [fixSh_readByte, setPbr_readByte, jump_readByte, callLongFrame_readByte, if_neg apart2, if_neg apart1, if_pos rfl]
  · rw [fixSh_readByte, setPbr_readByte, jump_readByte, callLongFrame_readByte, if_neg apart12, if_pos rfl]
  · rw [fixSh_readByte, setPbr_readByte, jump_readByte, callLongFrame_readByte, if_pos rfl]
  · rw [fixSh_value, setPbr_e, jump_e, setPbr_sp, jump_sp, hsp, he]
    exact forcedSp_cases s.e (s.sp - 3)

/-- Settles O42: the three calls, each with the return address it pushes. -/
theorem calls : Obligations.Calls := by
  intro s
  refine ⟨fun aa => completesWith_jsrAbs aa s, ?_, ?_⟩
  · intro aa hlast
    refine (completesWith_of_exec_callPointer (exec_jsrAbsIndX aa s)).imp fun t ⟨ht, hhigh, hlow, hsp⟩ => ?_
    rw [refetch_eq (by decide) hlast] at ht
    refine ⟨?_, hhigh, hlow, hsp⟩
    subst ht
    rfl
  · intro al hlast
    refine (completesWith_jsl al s).imp fun t ⟨hpc, hpbr, hbytes⟩ => ⟨hpc, ?_, hbytes⟩
    have hread : s.memRead .program (addr s.pbr (s.pc + 3)) = al.extractLsb' 16 8 := hlast
    have hwritten := memRead_writeByte s (bank0 s.sp) (addr s.pbr (s.pc + 3)) s.pbr .program
    rw [hpbr, refetch_eq (by decide) hlast]
    refine hwritten.trans ?_
    rw [hread]
    by_cases hmeet : addr s.pbr (s.pc + 3) = bank0 s.sp
    · rw [hmeet]
    · rw [if_neg fun h => hmeet h.1, if_neg fun h => hmeet h.1]

/-! ### Returns -/

theorem exec_rts (s : State) :
    exec .rts s = .next (s.pull16.2.jump (s.pull16.1 + 1)) := rfl

theorem completesWith_rts (s : State) :
    CompletesWith .rts s [.sp, .pc] 0x00 [] fun t =>
      t.pc = word (s.memRead .data (bank0 (spAfterPull s 2))) (s.memRead .data (bank0 (spAfterPull s 1))) + 1 ∧
        t.sp = spAfterPull s 2 := by
  refine completesWith_of_noFlags (exec_rts s) ((onlyChanges_pull16 s).trans (onlyChanges_jump _ _)) (by decide)
    (by decide) ⟨?_, ?_⟩
  · rw [jump_value, pull16_value]
  · rw [jump_sp, pull16_sp_eq]

theorem onlyChanges_pullN8 (s : State) : OnlyChanges [.sp] s s.pullN8.2 := by
  intro f hf
  cases f with
  | sp => simp at hf
  | _ => simp [Field.same]

theorem onlyChanges_pullN16 (s : State) : OnlyChanges [.sp] s s.pullN16.2 :=
  ((onlyChanges_pullN8 s).trans (onlyChanges_pullN8 _)).mono (by decide)

theorem exec_rtl (s : State) :
    exec .rtl s =
      .next (((s.pullN16.2.pullN8.2.jump (s.pullN16.1 + 1)).setPbr s.pullN16.2.pullN8.1).fixSh) := rfl

theorem completesWith_rtl (s : State) :
    CompletesWith .rtl s [.sp, .pc, .pbr] 0x00 [] fun t =>
      t.pc = word (s.memRead .data (bank0 (s.sp + 2))) (s.memRead .data (bank0 (s.sp + 1))) + 1 ∧
        t.pbr = s.memRead .data (bank0 (s.sp + 3)) ∧
        (s.e = false → t.sp = s.sp + 3) ∧ (s.e = true → t.sp = word 0x01 (lo (s.sp + 3))) := by
  have hpulls := (onlyChanges_pullN16 s).trans (onlyChanges_pullN8 s.pullN16.2)
  have hframe := ((hpulls.trans (onlyChanges_jump _ (s.pullN16.1 + 1))).trans
    (onlyChanges_setPbr _ s.pullN16.2.pullN8.1)).trans (onlyChanges_fixSh _)
  have three_higher : s.sp + 1 + 1 + 1 = s.sp + 3 := by bv_omega
  refine completesWith_of_noFlags (exec_rtl s) (hframe.mono (by decide)) (by decide) (by decide) ⟨?_, ?_, ?_⟩
  · rw [fixSh_pc, setPbr_pc, jump_value, pullN16_value]
  · rw [fixSh_pbr, setPbr_value, pullN8_value, pullN16_sp, pullN16_memRead, three_higher]
  · rw [fixSh_value, setPbr_e, jump_e, pullN8_e, pullN16_e, setPbr_sp, jump_sp, pullN8_sp, pullN16_sp, three_higher]
    exact forcedSp_cases s.e (s.sp + 3)

/-- Settles O43: RTS and RTL. -/
theorem subroutineReturns : Obligations.SubroutineReturns := fun s => ⟨completesWith_rts s, completesWith_rtl s⟩

/-! ### A call and its return -/

/-- Pulls walk back over the stack addresses of the pushes. -/
theorem spAfterPull_of_push {s t : State} (j k : Nat) (hsp : t.sp = spAfterPush s (j + k)) (he : t.e = s.e) :
    spAfterPull t k = spAfterPush s j := by
  unfold spAfterPull
  rw [hsp, he]
  unfold spAfterPush
  cases s.e
  · simp only [Bool.false_eq_true, if_false]; bv_omega
  · simp only [if_true, hi_word, lo_word, word_eq_iff, true_and]; bv_omega

/-- Where the platform answers no data read itself, neither does it in a state with the same inputs. -/
theorem PlainData.memRead {s t : State} (h : PlainData s) (hpins : t.pins = s.pins) (a : Addr) :
    t.memRead .data a = t.readByte a := memRead_plain t .data a (by rw [hpins]; exact h a)

theorem return_after_jsrAbs {s t : State} {aa : Word} (hplain : PlainData s) (h : exec (.jsrAbs aa) s = .next t) :
    ∃ u, exec .rts t = .next u ∧ u.pc = s.pc + 3 ∧ u.sp = s.sp ∧ u.pbr = s.pbr := by
  obtain ⟨t', hexec, hframe, -, -, -, hsp, hhigh, hlow⟩ := completesWith_jsrAbs aa s
  obtain rfl : t' = t := by rw [h] at hexec; injection hexec with e; exact e.symm
  obtain ⟨u, hrts, hframe', -, -, hpc, husp⟩ := completesWith_rts t'
  have he := hframe .e (by decide)
  have hpull1 : spAfterPull t' 1 = spAfterPush s 1 := spAfterPull_of_push 1 1 hsp he
  have hpull2 : spAfterPull t' 2 = s.sp := (spAfterPull_of_push 0 2 hsp he).trans (spAfterPush_zero s)
  refine ⟨u, hrts, ?_, husp.trans hpull2, (hframe' .pbr (by decide)).trans (hframe .pbr (by decide))⟩
  have hpins := hframe .pins (by decide)
  rw [hpc, hplain.memRead hpins, hplain.memRead hpins, hpull1, hpull2, hhigh, hlow, word_hi_lo]
  bv_omega

theorem return_after_jsl {s t : State} {al : Addr} (hplain : PlainData s) (native : s.e = false)
    (h : exec (.jsl al) s = .next t) :
    ∃ u, exec .rtl t = .next u ∧ u.pc = s.pc + 4 ∧ u.sp = s.sp ∧ u.pbr = s.pbr := by
  obtain ⟨t', hexec, hframe, -, -, -, -, hbank, hhigh, hlow, hsp, -⟩ := completesWith_jsl al s
  obtain rfl : t' = t := by rw [h] at hexec; injection hexec with e; exact e.symm
  obtain ⟨u, hrtl, -, -, -, hpc, hpbr, husp, -⟩ := completesWith_rtl t'
  have he : t'.e = false := (hframe .e (by decide)).trans native
  have hpins := hframe .pins (by decide)
  have hsp := hsp native
  have up1 : s.sp - 3 + 1 = s.sp - 2 := by bv_omega
  have up2 : s.sp - 3 + 2 = s.sp - 1 := by bv_omega
  have up3 : s.sp - 3 + 3 = s.sp := by bv_omega
  refine ⟨u, hrtl, ?_, ?_, ?_⟩
  · rw [hpc, hplain.memRead hpins, hplain.memRead hpins, hsp, up1, up2, hhigh, hlow, word_hi_lo]
    bv_omega
  · rw [husp he, hsp, up3]
  · rw [hpbr, hplain.memRead hpins, hsp, up3, hbank]

/-- Settles O44: the return pulls what the call pushed. -/
theorem callThenReturn : Obligations.CallThenReturn := fun _ hplain =>
  ⟨fun _ _ h => return_after_jsrAbs hplain h, fun _ _ native h => return_after_jsl hplain native h⟩

/-! ### Block moves -/

theorem exec_mvn (dba sba : Byte) (s : State) : exec (.mvn dba sba) s = .next (blockMove 1 dba sba s) := rfl
theorem exec_mvp (dba sba : Byte) (s : State) : exec (.mvp dba sba) s = .next (blockMove (-1) dba sba s) := rfl

/-- An index register stepped at its width, as a number. -/
theorem trunc_add_toNat (w : Width) (v d : Word) : (trunc w (v + d)).toNat = (v.toNat + d.toNat) % 2 ^ w.bits := by
  rw [trunc_toNat, BitVec.toNat_add]
  cases w <;> simp only [Width.bits] <;> omega

@[simp] theorem blockMove_c (d : Word) (dba sba : Byte) (s : State) : (blockMove d dba sba s).c = s.c - 1 := by
  unfold blockMove; dsimp only; split <;> simp

@[simp] theorem blockMove_x (d : Word) (dba sba : Byte) (s : State) : (blockMove d dba sba s).x = trunc s.wX (s.x + d) := by
  unfold blockMove; dsimp only; split <;> simp

@[simp] theorem blockMove_y (d : Word) (dba sba : Byte) (s : State) : (blockMove d dba sba s).y = trunc s.wX (s.y + d) := by
  unfold blockMove; dsimp only; split <;> simp

@[simp] theorem blockMove_dbr (d : Word) (dba sba : Byte) (s : State) : (blockMove d dba sba s).dbr = dba := by
  unfold blockMove; dsimp only; split <;> simp

@[simp] theorem blockMove_pc (d : Word) (dba sba : Byte) (s : State) :
    (blockMove d dba sba s).pc = if s.c = 0x0000 then s.pc + 3 else s.pc := by
  unfold blockMove; dsimp only; split <;> simp

@[simp] theorem blockMove_mem (d : Word) (dba sba : Byte) (s : State) :
    (blockMove d dba sba s).mem = (s.writeByte (addr dba s.y) (s.memRead .data (addr sba s.x))).mem := by
  unfold blockMove; dsimp only; split <;> simp

theorem onlyChanges_blockMove (d : Word) (dba sba : Byte) (s : State) :
    OnlyChanges [.c, .x, .y, .dbr, .mem, .pc] s (blockMove d dba sba s) := by
  intro f hf
  cases f with
  | c | x | y | dbr | mem | pc => simp at hf
  | _ => simp only [Field.same, blockMove]; split <;> simp

/-- One pass of a block move, whatever the step of its registers. -/
theorem completesWith_of_exec_blockMove {i : Instr} {d : Word} {dba sba : Byte} {s : State}
    (h : exec i s = .next (blockMove d dba sba s)) :
    CompletesWith i s [.c, .x, .y, .dbr, .mem, .pc] 0x00 [addr dba s.y] fun t =>
      t.readByte (addr dba s.y) = s.memRead .data (addr sba s.x) ∧ t.dbr = dba ∧
        t.x.toNat = (s.x.toNat + d.toNat) % 2 ^ s.wX.bits ∧ t.y.toNat = (s.y.toNat + d.toNat) % 2 ^ s.wX.bits ∧
        t.c = s.c - 1 ∧ t.pc = if s.c = 0x0000 then s.pc + 3 else s.pc := by
  have hframe := onlyChanges_blockMove d dba sba s
  have hbyte := fun a => readByte_congr _ _ (blockMove_mem d dba sba s) a
  refine ⟨_, h, hframe, flagsKept_of_onlyChanges hframe (by decide) _, ?_, ?_, blockMove_dbr d dba sba s, ?_, ?_,
    blockMove_c d dba sba s, blockMove_pc d dba sba s⟩
  · intro a ha
    rw [hbyte, readByte_writeByte_other _ _ _ _ (by simpa using ha)]
  · rw [hbyte, readByte_writeByte_same]
  · rw [blockMove_x, trunc_add_toNat]
  · rw [blockMove_y, trunc_add_toNat]

/-- One down is as much as the width's largest value up. -/
theorem add_minus_one_mod (w : Width) (n : Nat) :
    (n + (-1 : Word).toNat) % 2 ^ w.bits = (n + (2 ^ w.bits - 1)) % 2 ^ w.bits := by
  cases w <;> simp only [Width.bits, BitVec.reduceNeg, BitVec.toNat_ofNat] <;> omega

/-- Settles O45: MVN and MVP run the shared pass, one upwards and the other downwards. -/
theorem blockMoves : Obligations.BlockMoves := by
  rintro s dba sba i k (⟨rfl, rfl⟩ | ⟨rfl, rfl⟩)
  · exact completesWith_of_exec_blockMove (exec_mvn dba sba s)
  · refine (completesWith_of_exec_blockMove (exec_mvp dba sba s)).imp fun t ⟨hbyte, hdbr, hx, hy, hrest⟩ => ?_
    exact ⟨hbyte, hdbr, by rw [hx, add_minus_one_mod], by rw [hy, add_minus_one_mod], hrest⟩

end Sys2Proof.Machine

/-! PROOF. The interrupt sequence (60_exceptions.md R410, R411), BRK and COP (48_system.md R330, R331), RTI (R332), and NOP, WDM, WAI
and STP (R333 to R336). -/

namespace Sys2Proof.Machine

/-! ### The interrupt sequence in either mode -/

theorem onlyChanges_interrupt (k : IntKind) (r : Word) (s : State) :
    OnlyChanges [.sp, .mem, .p, .pbr, .dbr, .pc, .nmiPending, .abortPending] s (interrupt k r s) := by
  intro f hf
  cases f with
  | sp | mem | p | pbr | dbr | pc | nmiPending | abortPending => simp at hf
  | _ => simp [Field.same]

/-- In native mode DBR is kept (R411). -/
theorem onlyChanges_interrupt_native (k : IntKind) (r : Word) {s : State} (native : s.e = false) :
    OnlyChanges [.sp, .mem, .p, .pbr, .pc, .nmiPending, .abortPending] s (interrupt k r s) := by
  intro f hf
  by_cases hdbr : f = .dbr
  · subst hdbr
    show (interrupt k r s).dbr = s.dbr
    rw [interrupt_dbr, native]
    rfl
  · exact onlyChanges_interrupt k r s f (by simp_all)

theorem flagsKept_interrupt (k : IntKind) (r : Word) (s : State) : FlagsKept 0x0C s (interrupt k r s) := by
  simp [FlagsKept, interrupt_p]

theorem interrupt_fD (k : IntKind) (r : Word) (s : State) : (interrupt k r s).fD = false := by
  simp [State.fD, interrupt_p]

theorem interrupt_fI (k : IntKind) (r : Word) (s : State) : (interrupt k r s).fI = true := by
  simp [State.fI, interrupt_p]

/-- PC is the word at the vector of the kind in the mode, as the platform answers a vector read after the frame. -/
theorem interrupt_pc_eq {k : IntKind} {r va : Word} {s : State} (h : k.vector s.e = va) :
    (interrupt k r s).pc =
      word ((interrupt k r s).memRead .vector (bank0 (va + 1))) ((interrupt k r s).memRead .vector (bank0 va)) := by
  rw [interrupt_pc, h]
  rfl

/-! ### In native mode -/

theorem interrupt_sp_native (k : IntKind) (r : Word) {s : State} (native : s.e = false) :
    (interrupt k r s).sp = s.sp - 4 := by
  rw [interrupt_sp, pushFrame_sp, spAfterPush, native]
  rfl

/-- The four bytes of the frame. -/
theorem interrupt_frame_native (k : IntKind) (r : Word) {s : State} (native : s.e = false) :
    let t := interrupt k r s
    t.readByte (bank0 s.sp) = s.pbr ∧ t.readByte (bank0 (s.sp - 1)) = hi r ∧ t.readByte (bank0 (s.sp - 2)) = lo r ∧
      t.readByte (bank0 (s.sp - 3)) = s.p := by
  have hbyte := fun a => (interrupt_readByte k r s a).trans (pushFrame_readByte_n k r s native a)
  have hstacked : stackedP s k = s.p := by rw [stackedP, native]; rfl
  have apart01 : bank0 s.sp ≠ bank0 (s.sp - 1) := by rw [ne_eq, bank0_eq_iff]; bv_omega
  have apart02 : bank0 s.sp ≠ bank0 (s.sp - 2) := by rw [ne_eq, bank0_eq_iff]; bv_omega
  have apart03 : bank0 s.sp ≠ bank0 (s.sp - 3) := by rw [ne_eq, bank0_eq_iff]; bv_omega
  have apart12 : bank0 (s.sp - 1) ≠ bank0 (s.sp - 2) := by rw [ne_eq, bank0_eq_iff]; bv_omega
  have apart13 : bank0 (s.sp - 1) ≠ bank0 (s.sp - 3) := by rw [ne_eq, bank0_eq_iff]; bv_omega
  have apart23 : bank0 (s.sp - 2) ≠ bank0 (s.sp - 3) := by rw [ne_eq, bank0_eq_iff]; bv_omega
  refine ⟨?_, ?_, ?_, ?_⟩
  · rw [hbyte, if_neg apart03, if_neg apart02, if_neg apart01, if_pos rfl]
  · rw [hbyte, if_neg apart13, if_neg apart12, if_pos rfl]
  · rw [hbyte, if_neg apart23, if_pos rfl]
  · rw [hbyte, if_pos rfl, hstacked]

theorem interrupt_memoryKept_native (k : IntKind) (r : Word) {s : State} (native : s.e = false) :
    MemoryKept [bank0 s.sp, bank0 (s.sp - 1), bank0 (s.sp - 2), bank0 (s.sp - 3)] s (interrupt k r s) := by
  intro a ha
  simp only [List.mem_cons, List.not_mem_nil, or_false, not_or] at ha
  obtain ⟨h0, h1, h2, h3⟩ := ha
  rw [interrupt_readByte, pushFrame_readByte_n k r s native, if_neg h3, if_neg h2, if_neg h1, if_neg h0]

/-- Settles O46: the frame, the mode of the handler and the vector, in native mode. -/
theorem interruptNative : Obligations.InterruptNative := by
  intro k r s native t va
  have hvector : k.vector s.e = va := by rw [native]; cases k <;> rfl
  obtain ⟨hbank, hhigh, hlow, hp⟩ := interrupt_frame_native k r native
  exact ⟨onlyChanges_interrupt_native k r native, flagsKept_interrupt k r s, interrupt_memoryKept_native k r native,
    hbank, hhigh, hlow, hp, interrupt_sp_native k r native, interrupt_fD k r s, interrupt_fI k r s, interrupt_pbr k r s,
    interrupt_pc_eq hvector, interrupt_nmiPending k r s, interrupt_abortPending k r s⟩

/-! ### In emulation mode -/

/-- Bits 5 and 4 of a byte written as numbers: bit 5 set, bit 4 the break flag. -/
theorem setBit_break (p : Byte) (b : Bool) :
    setBit (setBit p 5 true) 4 b = (p &&& 0xCF) ||| (if b then 0x30 else 0x20) := by
  cases b <;> revert p <;> decide

theorem stackedP_emulation (k : IntKind) {s : State} (emulation : s.e = true) :
    stackedP s k = (s.p &&& 0xCF) ||| (if k = .brk ∨ k = .cop then 0x30 else 0x20) := by
  rw [stackedP, if_pos emulation, setBit_break]
  cases k <;> rfl

/-- The three bytes of the frame. -/
theorem interrupt_frame_emulation (k : IntKind) (r : Word) {s : State} (emulation : s.e = true) :
    let t := interrupt k r s
    t.readByte (bank0 s.sp) = hi r ∧ t.readByte (bank0 (spAfterPush s 1)) = lo r ∧
      t.readByte (bank0 (spAfterPush s 2)) = stackedP s k := by
  have hbyte := fun a => (interrupt_readByte k r s a).trans (pushFrame_readByte_e k r s emulation a)
  have apart01 := bank0_sp_ne s (k := 1) (by decide) (by decide)
  have apart02 := bank0_sp_ne s (k := 2) (by decide) (by decide)
  have apart12 := bank0_spAfterPush_ne s (j := 1) (k := 2) (by decide) (by decide) (by decide)
  refine ⟨?_, ?_, ?_⟩
  · rw [hbyte, if_neg apart02, if_neg apart01, if_pos rfl]
  · rw [hbyte, if_neg apart12, if_pos rfl]
  · rw [hbyte, if_pos rfl]

theorem interrupt_memoryKept_emulation (k : IntKind) (r : Word) {s : State} (emulation : s.e = true) :
    MemoryKept [bank0 s.sp, bank0 (spAfterPush s 1), bank0 (spAfterPush s 2)] s (interrupt k r s) := by
  intro a ha
  simp only [List.mem_cons, List.not_mem_nil, or_false, not_or] at ha
  obtain ⟨h0, h1, h2⟩ := ha
  rw [interrupt_readByte, pushFrame_readByte_e k r s emulation, if_neg h2, if_neg h1, if_neg h0]

/-- Settles O47: the frame inside page 1, the mode of the handler and the vector, in emulation mode. -/
theorem interruptEmulation : Obligations.InterruptEmulation := by
  intro k r s emulation t va stacked
  have hvector : k.vector s.e = va := by rw [emulation]; cases k <;> rfl
  have hsp : t.sp = spAfterPush s 3 := by rw [interrupt_sp, pushFrame_sp, if_pos emulation]
  have hdbr : t.dbr = 0x00 := by rw [interrupt_dbr, if_pos emulation]
  obtain ⟨hhigh, hlow, hp⟩ := interrupt_frame_emulation k r emulation
  exact ⟨onlyChanges_interrupt k r s, flagsKept_interrupt k r s, interrupt_memoryKept_emulation k r emulation,
    hhigh, hlow, hp.trans (stackedP_emulation k emulation), hsp, interrupt_fD k r s, interrupt_fI k r s,
    interrupt_pbr k r s, hdbr, interrupt_pc_eq hvector, interrupt_nmiPending k r s, interrupt_abortPending k r s⟩

/-! ### BRK and COP -/

theorem exec_brk (sig : Byte) (s : State) : exec (.brk sig) s = .next (interrupt .brk (s.pc + 2) s) := rfl
theorem exec_cop (sig : Byte) (s : State) : exec (.cop sig) s = .next (interrupt .cop (s.pc + 2) s) := rfl

/-- An interrupt that is no hardware one leaves the latches. -/
theorem onlyChanges_interrupt_software {k : IntKind} (hk : k = .brk ∨ k = .cop) (r : Word) (s : State) :
    OnlyChanges [.sp, .mem, .p, .pbr, .dbr, .pc] s (interrupt k r s) := by
  intro f hf
  by_cases hlatch : f = .nmiPending ∨ f = .abortPending
  · obtain rfl | rfl := hlatch <;> obtain rfl | rfl := hk <;>
      simp [Field.same, interrupt_nmiPending, interrupt_abortPending]
  · exact onlyChanges_interrupt k r s f (by simp_all)

theorem interrupt_memoryKept (k : IntKind) (r : Word) (s : State) :
    MemoryKept (if s.e then [bank0 s.sp, bank0 (spAfterPush s 1), bank0 (spAfterPush s 2)]
      else [bank0 s.sp, bank0 (s.sp - 1), bank0 (s.sp - 2), bank0 (s.sp - 3)]) s (interrupt k r s) := by
  cases he : s.e
  · exact interrupt_memoryKept_native k r he
  · exact interrupt_memoryKept_emulation k r he

/-- Settles O48: the instruction's effect is the sequence of its kind. -/
theorem softwareInterrupts : Obligations.SoftwareInterrupts := by
  intro s sig i k h
  simp only [List.mem_cons, Prod.mk.injEq, List.not_mem_nil, or_false] at h
  have hexec : exec i s = .next (interrupt k (s.pc + 2) s) := by
    obtain ⟨rfl, rfl⟩ | ⟨rfl, rfl⟩ := h
    · exact exec_brk sig s
    · exact exec_cop sig s
  have hk : k = .brk ∨ k = .cop := h.imp And.right And.right
  exact ⟨hexec, _, hexec, onlyChanges_interrupt_software hk _ s, flagsKept_interrupt k _ s, interrupt_memoryKept k _ s,
    interrupt_pbr k _ s, interrupt_fI k _ s, interrupt_fD k _ s⟩

/-! ### RTI -/

/-- RTI after it has pulled P. -/
def withPulledP (s : State) : State := s.pull8.2.writeP (s.memRead .data (bank0 (spAfterPull s 1)))

theorem exec_rti (s : State) :
    exec .rti s = .next (if s.e then (withPulledP s).pull16.2.jump (withPulledP s).pull16.1
      else ((withPulledP s).pull16.2.pull8.2.jump (withPulledP s).pull16.1).setPbr (withPulledP s).pull16.2.pull8.1) := by
  rw [withPulledP, ← pull8_value]
  rfl

theorem onlyChanges_withPulledP (s : State) : OnlyChanges [.sp, .p, .x, .y] s (withPulledP s) :=
  (onlyChanges_pull8 s).trans (onlyChanges_writeP _ _)

theorem withPulledP_p (s : State) :
    (withPulledP s).p = if s.e then s.memRead .data (bank0 (spAfterPull s 1)) ||| 0x30
      else s.memRead .data (bank0 (spAfterPull s 1)) := by
  rw [withPulledP, writeP_value, pull8_e, forcedP]
  rfl

theorem withPulledP_index (s : State) :
    ((withPulledP s).fX = true → (withPulledP s).x = word 0x00 (lo s.x) ∧ (withPulledP s).y = word 0x00 (lo s.y)) ∧
      ((withPulledP s).fX = false → (withPulledP s).x = s.x ∧ (withPulledP s).y = s.y) := by
  have h := writeP_index s.pull8.2 (s.memRead .data (bank0 (spAfterPull s 1)))
  rwa [pull8_x, pull8_y] at h

theorem withPulledP_memRead (s : State) (k : CycleKind) (a : Addr) : (withPulledP s).memRead k a = s.memRead k a := by
  rw [withPulledP, writeP_memRead, pull8_memRead]

/-- The pulls after that of P go on where it ended. -/
theorem spAfterPull_withPulledP (s : State) (k : Nat) : spAfterPull (withPulledP s) k = spAfterPull s (k + 1) :=
  (spAfterPull_congr s.pull8.2 (withPulledP s) (writeP_sp _ _) (writeP_e _ _) k).trans (spAfterPull_pull8 s k)

theorem withPulledP_pull16 (s : State) :
    (withPulledP s).pull16.1 =
      word (s.memRead .data (bank0 (spAfterPull s 3))) (s.memRead .data (bank0 (spAfterPull s 2))) := by
  rw [pull16_value, withPulledP_memRead, withPulledP_memRead, spAfterPull_withPulledP, spAfterPull_withPulledP]

/-- What RTI says of P and the index registers holds of any later state that keeps them. -/
theorem withPulledP_spec {s t : State} (h : OnlyChanges [.sp, .pc, .pbr] (withPulledP s) t) :
    t.p = (if s.e then s.memRead .data (bank0 (spAfterPull s 1)) ||| 0x30
        else s.memRead .data (bank0 (spAfterPull s 1))) ∧
      (t.fX = true → t.x = word 0x00 (lo s.x) ∧ t.y = word 0x00 (lo s.y)) ∧ (t.fX = false → t.x = s.x ∧ t.y = s.y) := by
  have hp : t.p = (withPulledP s).p := h .p (by decide)
  have hx : t.x = (withPulledP s).x := h .x (by decide)
  have hy : t.y = (withPulledP s).y := h .y (by decide)
  have hX : t.fX = (withPulledP s).fX := by rw [State.fX, State.fX, hp]
  rw [hX, hx, hy, hp]
  exact ⟨withPulledP_p s, withPulledP_index s⟩

/-- In emulation mode RTI pulls P and PC. -/
theorem exec_rti_emulation {s : State} (emulation : s.e = true) :
    exec .rti s = .next ((withPulledP s).pull16.2.jump (withPulledP s).pull16.1) := by
  rw [exec_rti, if_pos emulation]

/-- In native mode RTI pulls P, PC and PBR. -/
theorem exec_rti_native {s : State} (native : s.e = false) :
    exec .rti s = .next (((withPulledP s).pull16.2.pull8.2.jump (withPulledP s).pull16.1).setPbr
      (withPulledP s).pull16.2.pull8.1) := by
  rw [exec_rti, native]
  rfl

theorem completesWith_rti_emulation {s : State} (emulation : s.e = true) :
    CompletesWith .rti s [.sp, .p, .x, .y, .pc, .pbr] 0xFF [] fun t =>
      OnlyChanges [.sp, .pc, .pbr] (withPulledP s) t ∧ t.pc = (withPulledP s).pull16.1 ∧ t.pbr = s.pbr ∧
        t.sp = spAfterPull s 3 := by
  have hrest := (onlyChanges_pull16 (withPulledP s)).trans (onlyChanges_jump _ (withPulledP s).pull16.1)
  have hframe := (onlyChanges_withPulledP s).trans hrest
  refine completesWith_of_registers (exec_rti_emulation emulation) (hframe.mono (by decide)) (by decide)
    (flagsKept_all _ _) ⟨hrest.mono (by decide), rfl, hframe .pbr (by decide), ?_⟩
  rw [jump_sp, pull16_sp_eq, spAfterPull_withPulledP]

theorem completesWith_rti_native {s : State} (native : s.e = false) :
    CompletesWith .rti s [.sp, .p, .x, .y, .pc, .pbr] 0xFF [] fun t =>
      OnlyChanges [.sp, .pc, .pbr] (withPulledP s) t ∧ t.pc = (withPulledP s).pull16.1 ∧
        t.pbr = s.memRead .data (bank0 (spAfterPull s 4)) ∧ t.sp = spAfterPull s 4 := by
  have hpulls := (onlyChanges_pull16 (withPulledP s)).trans (onlyChanges_pull8 (withPulledP s).pull16.2)
  have hrest := (hpulls.trans (onlyChanges_jump _ (withPulledP s).pull16.1)).trans
    (onlyChanges_setPbr _ (withPulledP s).pull16.2.pull8.1)
  have hframe := (onlyChanges_withPulledP s).trans hrest
  refine completesWith_of_registers (exec_rti_native native) (hframe.mono (by decide)) (by decide)
    (flagsKept_all _ _) ⟨hrest.mono (by decide), rfl, ?_, ?_⟩
  · rw [setPbr_value, pull8_value, spAfterPull_pull16, spAfterPull_withPulledP, pull16_memRead, withPulledP_memRead]
  · rw [setPbr_sp, jump_sp, pull8_sp_eq, spAfterPull_pull16, spAfterPull_withPulledP]

/-- Settles O49: P, then PC, and in native mode PBR. -/
theorem returnFromInterrupt_instruction : Obligations.ReturnFromInterrupt := by
  intro s v
  cases he : s.e
  · refine (completesWith_rti_native he).imp fun t ⟨hkept, hpc, hpbr, hsp⟩ => ?_
    obtain ⟨hp, hnarrow, hwide⟩ := withPulledP_spec hkept
    exact ⟨by rw [hp, he], hnarrow, hwide, hpc.trans (withPulledP_pull16 s), by simp, fun _ => ⟨hpbr, hsp⟩⟩
  · refine (completesWith_rti_emulation he).imp fun t ⟨hkept, hpc, hpbr, hsp⟩ => ?_
    obtain ⟨hp, hnarrow, hwide⟩ := withPulledP_spec hkept
    exact ⟨by rw [hp, he], hnarrow, hwide, hpc.trans (withPulledP_pull16 s), fun _ => ⟨hpbr, hsp⟩, by simp⟩

/-! ### An interrupt and the return from it -/

/-- The index registers of a state with the invariant of R34 (c) survive a write of the P they were kept under. -/
theorem index_kept_of_modeInv {s t : State} (hinv : ModeInv s) (hp : t.p = s.p)
    (hnarrow : t.fX = true → t.x = word 0x00 (lo s.x) ∧ t.y = word 0x00 (lo s.y))
    (hwide : t.fX = false → t.x = s.x ∧ t.y = s.y) : t.x = s.x ∧ t.y = s.y := by
  obtain ⟨-, -, hhigh⟩ := hinv
  have hX : t.fX = s.fX := by rw [State.fX, State.fX, hp]
  cases h : s.fX
  · exact hwide (hX.trans h)
  · obtain ⟨hx, hy⟩ := hnarrow (hX.trans h)
    obtain ⟨hx0, hy0⟩ := hhigh h
    exact ⟨by rw [hx, ← hx0, word_hi_lo], by rw [hy, ← hy0, word_hi_lo]⟩

/-- Settles O50: RTI pulls the four bytes of the frame. -/
theorem interruptThenReturn : Obligations.InterruptThenReturn := by
  intro k r s native hinv hplain
  have hframe := onlyChanges_interrupt_native k r native
  have he : (interrupt k r s).e = false := (hframe .e (by decide)).trans native
  have hpins : (interrupt k r s).pins = s.pins := hframe .pins (by decide)
  have hpull : ∀ j, spAfterPull (interrupt k r s) j = s.sp - 4 + BitVec.ofNat 16 j := by
    intro j
    rw [spAfterPull, he, interrupt_sp_native k r native]
    rfl
  have up1 : spAfterPull (interrupt k r s) 1 = s.sp - 3 := by rw [hpull]; bv_omega
  have up2 : spAfterPull (interrupt k r s) 2 = s.sp - 2 := by rw [hpull]; bv_omega
  have up3 : spAfterPull (interrupt k r s) 3 = s.sp - 1 := by rw [hpull]; bv_omega
  have up4 : spAfterPull (interrupt k r s) 4 = s.sp := by rw [hpull]; bv_omega
  obtain ⟨hbank, hhigh, hlow, hstacked⟩ := interrupt_frame_native k r native
  obtain ⟨u, hexec, -, -, -, hp, hnarrow, hwide, hpc, -, hrest⟩ := returnFromInterrupt_instruction (interrupt k r s)
  obtain ⟨hpbr, hsp⟩ := hrest he
  rw [up1, hplain.memRead hpins, hstacked, he] at hp
  rw [up2, up3, hplain.memRead hpins, hplain.memRead hpins, hhigh, hlow, word_hi_lo] at hpc
  rw [up4, hplain.memRead hpins, hbank] at hpbr
  rw [up4] at hsp
  rw [interrupt_x, interrupt_y] at hnarrow hwide
  obtain ⟨hx, hy⟩ := index_kept_of_modeInv hinv hp hnarrow hwide
  exact ⟨u, hexec, hpc, hpbr, hp, hsp, hx, hy⟩

/-! ### NOP, WDM, WAI and STP -/

theorem exec_nop (s : State) : exec .nop s = .next (s.advance 1) := rfl
theorem exec_wdm (b : Byte) (s : State) : exec (.wdm b) s = .next (s.advance 2) := rfl

theorem completesWith_of_exec_advance {i : Instr} {s : State} {n : Nat} (h : exec i s = .next (s.advance n)) :
    CompletesWith i s [.pc] 0x00 [] fun t => t.pc = s.pc + BitVec.ofNat 16 n :=
  completesWith_of_noFlags h (onlyChanges_advance s n) (by decide) (by decide) rfl

theorem completesWith_wai (s : State) :
    CompletesWith .wai s [.pc, .waiting] 0x00 [] fun t => t.pc = s.pc + 1 ∧ t.waiting = !s.pins.rdyForcedHigh := by
  refine completesWith_of_noFlags (t := waitForInterrupt s) rfl ?_ (by decide) (by decide) ⟨rfl, rfl⟩
  intro f hf
  cases f with
  | pc | waiting => simp at hf
  | _ => rfl

theorem completesWith_stp (s : State) :
    CompletesWith .stp s [.pc, .stopped] 0x00 [] fun t => t.pc = s.pc + 1 ∧ t.stopped = true := by
  refine completesWith_of_noFlags (t := stopClock s) rfl ?_ (by decide) (by decide) ⟨rfl, rfl⟩
  intro f hf
  cases f with
  | pc | stopped => simp at hf
  | _ => rfl

/-- Settles O57: four instructions that move PC on, two of which stop the processor. -/
theorem noOperationWaitStop : Obligations.NoOperationWaitStop := fun s =>
  ⟨⟨fun _ => rfl, rfl, completesWith_of_exec_advance (exec_nop s)⟩, fun b => completesWith_of_exec_advance (exec_wdm b s),
    completesWith_wai s, completesWith_stp s⟩

end Sys2Proof.Machine

/-! PROOF. Which part of the state each instruction may write (10_state.md R26, R32, R35, R37, R38; 45_status.md section 4), and that
every instruction completes (60_exceptions.md R401). -/

namespace Sys2Proof

open Machine

/-- The mnemonics that may write E, S, X, Y or the flags M and X: all that the invariants of R34 speak of. -/
def Mnemonic.touchesMode : Mnemonic → Bool
  | .ldx | .ldy | .inx | .dex | .iny | .dey | .tax | .tsx | .tyx | .tay | .txy | .txs | .tcs | .xce | .rep | .sep | .plp
  | .rti | .pha | .phx | .phy | .phb | .phk | .php | .phd | .pea | .pei | .per | .pla | .plx | .ply | .plb | .pld | .jsr
  | .jsl | .rts | .rtl | .brk | .cop | .mvn | .mvp => true
  | _ => false

/-- The fields an instruction of a mnemonic may write, PBR apart, which depends on the opcode. -/
def Mnemonic.mayWrite (mn : Mnemonic) : Field → Bool
  | .c | .p | .pc | .waiting | .stopped | .draws => true
  | .x | .y | .sp => mn.touchesMode
  | .mem => mn.stores
  | .d => mn.writesD
  | .dbr => mn.writesDbr
  | .e => mn == .xce
  | .pbr | .nmiPending | .nmiPrev | .abortPending | .pins | .input | .mxInvalid => false

/-- The fields an instruction may write. -/
def Instr.mayWrite (i : Instr) : Field → Bool
  | .pbr => i.writesPbr
  | f => i.mnemonic.mayWrite f

/-- The mnemonics of the instructions with a data operand. -/
def dataMnemonics : List Mnemonic :=
  [.lda, .ldx, .ldy, .sta, .stx, .sty, .stz, .adc, .sbc, .and, .ora, .eor, .cmp, .cpx, .cpy, .bit, .asl, .lsr, .rol, .ror,
    .inc, .dec, .tsb, .trb]

end Sys2Proof

namespace Sys2Proof.Machine

/-- The instruction completes, and writes no field and no flag that is not its own. -/
def Footprint (i : Instr) (s : State) : Prop :=
  ∃ t, exec i s = .next t ∧ (∀ f, i.mayWrite f = false → f.same s t) ∧ FlagsKept i.mnemonic.flagsWritten s t

theorem mayWrite_of_mnemonic {i : Instr} {f : Field} (h : i.mnemonic.mayWrite f = true) : i.mayWrite f = true := by
  cases f with
  | pbr => cases h
  | _ => exact h

/-- A completion that stays inside what the instruction may write. -/
theorem CompletesWith.footprint {i : Instr} {s : State} {fields : List Field} {flags : Byte} {stored : List Addr}
    {P : State → Prop} (h : CompletesWith i s fields flags stored P) (hfields : fields.all i.mayWrite = true)
    (hflags : flags = i.mnemonic.flagsWritten) : Footprint i s := by
  obtain ⟨t, hexec, hframe, hkept, -, -⟩ := h
  refine ⟨t, hexec, fun f hf => hframe f fun hmem => ?_, hflags ▸ hkept⟩
  rw [List.all_eq_true] at hfields
  simp [hfields f hmem] at hf

/-- The same where only the mnemonic is known. -/
theorem CompletesWith.footprint_of_mnemonic {i : Instr} {mn : Mnemonic} {s : State} {fields : List Field} {flags : Byte}
    {stored : List Addr} {P : State → Prop} (h : CompletesWith i s fields flags stored P) (hmn : i.mnemonic = mn)
    (hfields : fields.all mn.mayWrite = true) (hflags : flags = mn.flagsWritten) : Footprint i s := by
  subst hmn
  rw [List.all_eq_true] at hfields
  exact h.footprint (List.all_eq_true.2 fun f hf => mayWrite_of_mnemonic (hfields f hf)) hflags

/-- Flags kept outside a mask are kept outside a larger one. -/
theorem flagsKept_mono {small large : Byte} {s t : State} (h : ~~~small &&& ~~~large = ~~~large) (hkept : FlagsKept small s t) :
    FlagsKept large s t := by
  rw [FlagsKept, ← h, ← BitVec.and_assoc, ← BitVec.and_assoc, hkept]

/-! ### Instructions with a data operand -/

theorem mnemonic_of_operand {i : Instr} {o : Operand} (h : i.operand? = some o) : i.mnemonic ∈ dataMnemonics := by
  have hmem : decide (i.mnemonic ∈ dataMnemonics) = true := by cases i <;> cases h <;> rfl
  exact of_decide_eq_true hmem

/-- ADC and SBC, in either mode and on any digits. -/
theorem footprint_arithmetic {i : Instr} {o : Operand} (s : State) (hmn : i.mnemonic = .adc ∨ i.mnemonic = .sbc)
    (ho : i.operand? = some o) : Footprint i s := by
  have harith {fields : List Field} {P : State → Prop} (hfields : fields.all Mnemonic.adc.mayWrite = true)
      (h : CompletesWith i s fields 0xC3 [] P) : Footprint i s := by
    obtain hmn | hmn := hmn <;> exact h.footprint_of_mnemonic hmn hfields rfl
  cases hD : s.fD
  · obtain hadc | hsbc := hmn
    · exact harith rfl (addBinary i o s hadc ho hD)
    · exact harith rfl (subtractBinary i o s hsbc ho hD)
  · by_cases hvalid : validBcd s.wA s.c = true ∧ validBcd s.wA (o.read s.wA s) = true
    · obtain ⟨ha, hm⟩ := hvalid
      obtain hadc | hsbc := hmn
      · exact harith rfl (completesWith_of_exec_putDecimal (exec_adc_decimal hadc ho hD ha hm))
      · exact harith rfl (completesWith_of_exec_putDecimal (exec_sbc_decimal hsbc ho hD ha hm))
    · rw [not_and_or, Bool.not_eq_true, Bool.not_eq_true] at hvalid
      exact harith rfl (decimalInvalidCompletes i o s hmn ho hD hvalid)

theorem footprint_data {i : Instr} {o : Operand} (s : State) (ho : i.operand? = some o) : Footprint i s := by
  have hexec := exec_data i o s ho
  have hmem := mnemonic_of_operand ho
  cases h : i.mnemonic with
  | lda => exact (completesWith_of_exec_putA (exec_lda h ho)).footprint_of_mnemonic h rfl rfl
  | ldx => exact (completesWith_of_exec_putX (exec_ldx h ho)).footprint_of_mnemonic h rfl rfl
  | ldy => exact (completesWith_of_exec_putY (exec_ldy h ho)).footprint_of_mnemonic h rfl rfl
  | sta | stx | sty | stz =>
    simp only [h, dataMeaning] at hexec
    exact (completesWith_of_exec_store hexec).footprint_of_mnemonic h rfl rfl
  | adc => exact footprint_arithmetic s (.inl h) ho
  | sbc => exact footprint_arithmetic s (.inr h) ho
  | and | ora | eor =>
    simp only [h, dataMeaning] at hexec
    exact (completesWith_of_exec_logic hexec).footprint_of_mnemonic h rfl rfl
  | cmp | cpx | cpy =>
    simp only [h, dataMeaning] at hexec
    exact (completesWith_of_exec_compareWith hexec).footprint_of_mnemonic h rfl rfl
  | bit => exact (bitTest_instructions i o s h ho).footprint_of_mnemonic h rfl rfl
  | asl | lsr | rol | ror =>
    simp only [h, dataMeaning] at hexec
    exact (completesWith_of_exec_shiftMemory hexec).footprint_of_mnemonic h rfl rfl
  | inc | dec =>
    simp only [h, dataMeaning] at hexec
    exact (completesWith_of_exec_stepMemory hexec).footprint_of_mnemonic h rfl rfl
  | tsb | trb =>
    simp only [h, dataMeaning] at hexec
    exact (completesWith_of_exec_testBits hexec).footprint_of_mnemonic h rfl rfl
  | _ =>
    rw [h] at hmem
    exact absurd hmem (by decide)

/-- XCE out of emulation mode writes one flag of the three of its row. -/
theorem footprint_xce_native {s : State} (hC : s.fC = false) : Footprint .xce s := by
  obtain ⟨t, hexec, hframe, hflags, -⟩ := completesWith_xce_native hC
  have hrow : FlagsKept 0x31 s t := flagsKept_mono (by decide) hflags
  exact (completesWith_of_registers (P := fun _ => True) hexec hframe (by decide) hrow trivial).footprint rfl rfl

theorem footprint_push {i : Instr} {w : Width} {v : Word} {s : State} (h : exec i s = .next (push w v s))
    (hfields : [Field.sp, .mem, .pc].all i.mayWrite = true) (hflags : 0x00 = i.mnemonic.flagsWritten) : Footprint i s := by
  obtain ⟨hnarrow, hwide⟩ := completesWith_of_exec_push h
  cases w
  · exact (hnarrow rfl).footprint hfields hflags
  · exact (hwide rfl).footprint hfields hflags

theorem footprint_control {i : Instr} (s : State) (ho : i.operand? = none) : Footprint i s := by
  cases i with
  | brk sig => exact (softwareInterrupts s sig (.brk sig) .brk (by simp)).2.footprint rfl rfl
  | cop sig => exact (softwareInterrupts s sig (.cop sig) .cop (by simp)).2.footprint rfl rfl
  | aslAcc | lsrAcc | rolAcc | rorAcc => exact (completesWith_of_exec_shiftA rfl).footprint rfl rfl
  | incAcc => exact (completesWith_of_exec_stepA counts_incr rfl).footprint rfl rfl
  | decAcc => exact (completesWith_of_exec_stepA counts_decr rfl).footprint rfl rfl
  | inx => exact (completesWith_of_exec_stepX counts_incr rfl).footprint rfl rfl
  | dex => exact (completesWith_of_exec_stepX counts_decr rfl).footprint rfl rfl
  | iny => exact (completesWith_of_exec_stepY counts_incr rfl).footprint rfl rfl
  | dey => exact (completesWith_of_exec_stepY counts_decr rfl).footprint rfl rfl
  | tax | tsx | tyx => exact (completesWith_of_exec_toX rfl).footprint rfl rfl
  | tay | txy => exact (completesWith_of_exec_toY rfl).footprint rfl rfl
  | txa | tya => exact (completesWith_of_exec_toA rfl).footprint rfl rfl
  | tdc | tsc => exact (completesWith_of_exec_toC rfl).footprint rfl rfl
  | tcd => exact (completesWith_of_exec_toD rfl).footprint rfl rfl
  | tcs | txs => exact (completesWith_of_exec_toS rfl).footprint rfl rfl
  | xba => exact (completesWith_xba s).footprint rfl rfl
  | xce =>
    cases hC : s.fC with
    | false => exact footprint_xce_native hC
    | true => exact (completesWith_xce_emulation hC).footprint rfl rfl
  | clc => exact (completesWith_of_exec_setFlag (by decide) (exec_clc s)).footprint rfl rfl
  | cld => exact (completesWith_of_exec_setFlag (by decide) (exec_cld s)).footprint rfl rfl
  | cli => exact (completesWith_of_exec_setFlag (by decide) (exec_cli s)).footprint rfl rfl
  | clv => exact (completesWith_of_exec_setFlag (by decide) (exec_clv s)).footprint rfl rfl
  | sec => exact (completesWith_of_exec_setFlag (by decide) (exec_sec s)).footprint rfl rfl
  | sed => exact (completesWith_of_exec_setFlag (by decide) (exec_sed s)).footprint rfl rfl
  | sei => exact (completesWith_of_exec_setFlag (by decide) (exec_sei s)).footprint rfl rfl
  | rep mask => exact (completesWith_of_exec_writeP (OnlyChanges.refl _ s) (exec_rep mask s)).footprint rfl rfl
  | sep mask => exact (completesWith_of_exec_writeP (OnlyChanges.refl _ s) (exec_sep mask s)).footprint rfl rfl
  | plp => exact (completesWith_of_exec_writeP (onlyChanges_pull8 s) (exec_plp s)).footprint rfl rfl
  | rti => exact (returnFromInterrupt_instruction s).footprint rfl rfl
  | pha => exact footprint_push (exec_pha s) rfl rfl
  | phx => exact footprint_push (exec_phx s) rfl rfl
  | phy => exact footprint_push (exec_phy s) rfl rfl
  | phb | phk | php => exact (completesWith_of_exec_push8 rfl).footprint rfl rfl
  | phd | pea _ | pei _ | per _ => exact (completesWith_of_exec_pushWord rfl).footprint rfl rfl
  | pla => exact (completesWith_pla s).footprint rfl rfl
  | plx => exact (completesWith_plx s).footprint rfl rfl
  | ply => exact (completesWith_ply s).footprint rfl rfl
  | plb => exact (completesWith_plb s).footprint rfl rfl
  | pld => exact (completesWith_pld s).footprint rfl rfl
  | bcc _ | bcs _ | beq _ | bmi _ | bne _ | bpl _ | bvc _ | bvs _ | bra _ =>
    exact (completesWith_of_exec_branch rfl).footprint rfl rfl
  | brl off => exact (completesWith_of_exec_jump (exec_brl off s)).footprint rfl rfl
  | jmpAbs aa => exact (completesWith_of_exec_jump (exec_jmpAbs aa s)).footprint rfl rfl
  | jmpAbsInd aa => exact (completesWith_of_exec_jump (exec_jmpAbsInd aa s)).footprint rfl rfl
  | jmpAbsIndX aa => exact (completesWith_of_exec_jump (exec_jmpAbsIndX aa s)).footprint rfl rfl
  | jmpLong al => exact (completesWith_of_exec_jumpLong (exec_jmpLong al s)).footprint rfl rfl
  | jml aa => exact (completesWith_of_exec_jumpLong (exec_jml aa s)).footprint rfl rfl
  | jsrAbs aa => exact (completesWith_jsrAbs aa s).footprint rfl rfl
  | jsrAbsIndX aa => exact (completesWith_of_exec_callPointer (exec_jsrAbsIndX aa s)).footprint rfl rfl
  | jsl al => exact (completesWith_jsl al s).footprint rfl rfl
  | rts => exact (completesWith_rts s).footprint rfl rfl
  | rtl => exact (completesWith_rtl s).footprint rfl rfl
  | mvn dba sba => exact (completesWith_of_exec_blockMove (exec_mvn dba sba s)).footprint rfl rfl
  | mvp dba sba => exact (completesWith_of_exec_blockMove (exec_mvp dba sba s)).footprint rfl rfl
  | nop => exact (completesWith_of_exec_advance (exec_nop s)).footprint rfl rfl
  | wdm b => exact (completesWith_of_exec_advance (exec_wdm b s)).footprint rfl rfl
  | wai => exact (completesWith_wai s).footprint rfl rfl
  | stp => exact (completesWith_stp s).footprint rfl rfl
  | _ => cases ho

/-- Every instruction completes inside its row of the tables. -/
theorem footprint (i : Instr) (s : State) : Footprint i s := by
  cases ho : i.operand? with
  | some o => exact footprint_data s ho
  | none => exact footprint_control s ho

/-- Settles O6: no instruction faults or is refused. -/
theorem execAlwaysNext : Obligations.ExecAlwaysNext := fun i s =>
  let ⟨t, hexec, _⟩ := footprint i s
  ⟨t, hexec⟩

/-- What an instruction that answers `t` has kept. -/
theorem exec_keeps {i : Instr} {s t : State} (h : exec i s = .next t) :
    (∀ f, i.mayWrite f = false → f.same s t) ∧ FlagsKept i.mnemonic.flagsWritten s t := by
  obtain ⟨u, hexec, hkept⟩ := footprint i s
  obtain rfl : t = u := Host.Outcome.next.inj (h.symm.trans hexec)
  exact hkept

/-- Settles O14: the flags of the row, and memory only where the mnemonic stores. -/
theorem flagsAndMemoryWrittenOnlyBy : Obligations.FlagsAndMemoryWrittenOnlyBy := by
  intro i s t h
  obtain ⟨hfields, hflags⟩ := exec_keeps h
  exact ⟨hflags, fun hstores a _ => readByte_congr s t (hfields .mem hstores) a⟩

/-- In native mode BRK and COP keep DBR (R38). -/
theorem dbr_kept_by_interrupt {i : Instr} {s t : State} (hmn : i.mnemonic = .brk ∨ i.mnemonic = .cop) (native : s.e = false)
    (h : exec i s = .next t) : t.dbr = s.dbr := by
  obtain ⟨k, r, hk⟩ : ∃ k r, exec i s = .next (interrupt k r s) := by
    cases i with
    | brk sig => exact ⟨_, _, exec_brk sig s⟩
    | cop sig => exact ⟨_, _, exec_cop sig s⟩
    | _ => simp [Instr.mnemonic] at hmn
  obtain rfl : t = interrupt k r s := Host.Outcome.next.inj (h.symm.trans hk)
  rw [interrupt_dbr, native]
  rfl

/-- Settles O12: PBR, D and DBR are kept by the instructions that may not write them. -/
theorem banksAndDirectWrittenOnlyBy : Obligations.BanksAndDirectWrittenOnlyBy := by
  intro i s t h
  obtain ⟨hfields, -⟩ := exec_keeps h
  exact ⟨hfields .pbr, hfields .d, hfields .dbr, fun hmn native => dbr_kept_by_interrupt hmn native h⟩

end Sys2Proof.Machine

/-! PROOF. One step: what it can answer, E (10_state.md R32), runs without an abort (60_exceptions.md R401, 92 D10), the priority of
the interrupts (R420, R421), the latch of NMI (R404), an ABORTB pulse (R405), the reset (R500), the stop of STP and the wait of
WAI (R430). -/

namespace Sys2Proof.Machine

/-! ### What a step answers -/

/-- The next state of a step, by the action of its boundary. -/
inductive Performs (s : State) : Action → State → Prop where
  | reset : Performs s .reset (resetStep s)
  | stopped : Performs s .stopped s
  | waiting : Performs s .waiting s
  | take (k : IntKind) (r : Word) : Performs s (.take k r) (takeInterrupt k r s)
  | abandon (n : Nat) (a : Action) : Performs s (.abandon n a) (abandonStep n a s)
  | run (u : State) (h : exec s.fetch s = .next u) : Performs s .run (settle s (settleMX s.fetch u))

theorem performs_of_perform {s t : State} {a : Action} (h : perform s a = .next t) : Performs s a t := by
  cases a with
  | reset => obtain rfl := Host.Outcome.next.inj h; exact .reset
  | stopped => obtain rfl := Host.Outcome.next.inj h; exact .stopped
  | waiting => obtain rfl := Host.Outcome.next.inj h; exact .waiting
  | take k r => obtain rfl := Host.Outcome.next.inj h; exact .take k r
  | abandon n a => obtain rfl := Host.Outcome.next.inj h; exact .abandon n a
  | abortDuringAbort => cases h
  | run =>
    obtain ⟨u, hexec⟩ := execAlwaysNext s.fetch s
    rw [perform_run s u hexec] at h
    obtain rfl := Host.Outcome.next.inj h
    exact .run u hexec

theorem performs_of_step {s t : State} (h : step s = .next t) : Performs (boundary s).1 (boundary s).2 t :=
  performs_of_perform h

/-- Only the abort sequence that is itself aborted is refused. -/
theorem perform_next (s : State) {a : Action} (h : a ≠ .abortDuringAbort) : ∃ t, perform s a = .next t := by
  cases a with
  | abortDuringAbort => exact absurd rfl h
  | run =>
    obtain ⟨u, hexec⟩ := execAlwaysNext s.fetch s
    exact ⟨_, perform_run s u hexec⟩
  | _ => exact ⟨_, rfl⟩

theorem settle_eq (s t : State) : settle s t = t ∨ settle s t = suppress s t := by
  cases h : s.pins.abort
  · exact .inl (settle_noAbort s t h)
  · exact .inr (settle_abort s t h)

theorem takeInterrupt_eq (k : IntKind) (r : Word) (s : State) :
    takeInterrupt k r s = { interrupt k r s with mxInvalid := false } ∨
      takeInterrupt k r s = settle s { interrupt k r s with mxInvalid := false } := by
  cases k with
  | abort => exact .inl rfl
  | _ => exact .inr rfl

/-! ### E -/

theorem takeInterrupt_e (k : IntKind) (r : Word) (s : State) : (takeInterrupt k r s).e = s.e := by
  obtain h | h := takeInterrupt_eq k r s
  · rw [h]; exact interrupt_e s k r
  · obtain h' | h' := settle_eq s { interrupt k r s with mxInvalid := false } <;> rw [h, h']
    · exact interrupt_e s k r
    · rfl

theorem eq_xce_of_mnemonic {i : Instr} (h : i.mnemonic = .xce) : i = .xce := by
  cases i with
  | xce => rfl
  | _ => cases h

/-- Only XCE writes E. -/
theorem exec_e {i : Instr} {s t : State} (h : exec i s = .next t) (hi : i ≠ .xce) : t.e = s.e :=
  (exec_keeps h).1 .e (beq_eq_false_iff_ne.2 fun hmn => hi (eq_xce_of_mnemonic hmn))

/-- Settles O13: every other action keeps E, and so does every other instruction. -/
theorem emulationBitWrittenOnlyBy : Obligations.EmulationBitWrittenOnlyBy := by
  intro s t h hne
  have hperforms := performs_of_step h
  rw [← boundary_e s] at hne
  generalize (boundary s).1 = u at *
  generalize (boundary s).2 = a at *
  cases hperforms with
  | reset => exact .inl rfl
  | stopped => exact absurd rfl hne
  | waiting => exact absurd rfl hne
  | take k r => exact absurd (takeInterrupt_e k r u) hne
  | abandon n a => exact .inr (.inl ⟨n, a, rfl⟩)
  | run v hexec =>
    refine .inr (.inr ⟨rfl, by_contra fun hxce => hne ?_⟩)
    obtain hsettle | hsettle := settle_eq u (settleMX u.fetch v) <;> rw [hsettle]
    · rw [settleMX_e, exec_e hexec hxce]
    · rfl

/-! ### Runs -/

theorem sample_noAbort {s : State} (h : NeverAborts s) : s.sample.pins.abort = false ∧ NeverAborts s.sample := by
  unfold NeverAborts State.sample at *
  cases hin : s.input with
  | nil => simp
  | cons p rest =>
    rw [hin] at h
    exact ⟨h p (by simp), fun q hq => h q (by simp [hq])⟩

theorem recognise_of_noAbort {s : State} (h : s.pins.abort = false) : recognise s ≠ .abortDuringAbort := by
  unfold recognise
  rw [h]
  split
  · simp
  · split
    · simp
    · split <;> simp

theorem wakeUp_ne_abortDuringAbort (s : State) : (wakeUp s).2 ≠ .abortDuringAbort := by
  obtain ⟨-, -, h⟩ | ⟨-, h⟩ := wakeUp_cases s <;> rw [h]
  · simp
  · dsimp only
    split
    · simp
    · split
      · simp
      · split <;> simp

/-- Without a pulse of ABORTB the boundary never meets one in the abort sequence. -/
theorem decideAction_of_noAbort {s : State} (h : s.pins.abort = false) : (decideAction s).2 ≠ .abortDuringAbort := by
  obtain ⟨-, hd⟩ | ⟨-, -, hd⟩ | ⟨-, -, -, hd⟩ | ⟨-, -, -, hd⟩ := decideAction_cases s <;> rw [hd]
  · simp
  · simp
  · exact wakeUp_ne_abortDuringAbort _
  · exact recognise_of_noAbort h

theorem boundary_of_noAbort {s : State} (h : s.sample.pins.abort = false) : (boundary s).2 ≠ .abortDuringAbort := by
  have hd := decideAction_of_noAbort h
  change (decideAction s.sample).2.cut s.sample.pins.resetAfter ≠ .abortDuringAbort
  obtain hcut | ⟨n, -, -, hcut⟩ := cut_cases (decideAction s.sample).2 s.sample.pins.resetAfter <;> rw [hcut]
  · exact hd
  · simp

theorem takeInterrupt_input (k : IntKind) (r : Word) (s : State) : (takeInterrupt k r s).input = s.input := by
  obtain h | h := takeInterrupt_eq k r s
  · rw [h]; exact interrupt_input s k r
  · obtain h' | h' := settle_eq s { interrupt k r s with mxInvalid := false } <;> rw [h, h']
    · exact interrupt_input s k r
    · rfl

/-- A step takes one sample of the inputs and leaves the rest. -/
theorem step_input {s t : State} (h : step s = .next t) : t.input = s.sample.input := by
  have hperforms := performs_of_step h
  rw [← boundary_input s]
  generalize (boundary s).1 = u at *
  generalize (boundary s).2 = a at *
  cases hperforms with
  | reset | stopped | waiting | abandon n a => rfl
  | take k r => exact takeInterrupt_input k r u
  | run v hexec =>
    obtain hsettle | hsettle := settle_eq u (settleMX u.fetch v) <;> rw [hsettle]
    · rw [settleMX_input]; exact (exec_keeps hexec).1 .input rfl
    · rfl

/-- Settles O7, by induction on the number of steps. -/
theorem runsOnWithoutAbort : Obligations.RunsOnWithoutAbort := by
  intro n
  induction n with
  | zero => exact fun s _ => ⟨s, rfl⟩
  | succ n ih =>
    intro s hs
    obtain ⟨hnow, hlater⟩ := sample_noAbort hs
    obtain ⟨t, ht⟩ := perform_next (boundary s).1 (boundary_of_noAbort hnow)
    have hstep : step s = .next t := ht
    have hrest : NeverAborts t := by rw [NeverAborts, step_input hstep]; exact hlater
    obtain ⟨u, hu⟩ := ih t hrest
    exact ⟨u, (run_next n s t hstep).trans hu⟩

/-! ### The boundary of a running processor -/

/-- What a running processor does at a boundary without an ABORTB pulse. -/
theorem recognise_eq {s : State} (h : s.pins.abort = false) :
    recognise s = if s.abortPending then .take .abort s.pc else if s.nmiPending then .take .nmi s.pc
      else if !s.pins.irqb && !s.fI then .take .irq s.pc else .run := by
  simp [recognise, h]

/-- A step whose boundary takes an interrupt without an ABORTB pulse. -/
theorem step_take {s t : State} {k : IntKind} {r : Word} (hb : boundary s = (t, .take k r)) (h : t.pins.abort = false) :
    step s = .next { interrupt k r t with mxInvalid := false } := by
  rw [step_eq, hb, perform_take, takeInterrupt_noAbort k r t h]

/-- A step whose boundary takes the abort itself, whatever ABORTB does. -/
theorem step_takeAbort {s t : State} {r : Word} (hb : boundary s = (t, .take .abort r)) :
    step s = .next { interrupt .abort r t with mxInvalid := false } := by
  rw [step_eq, hb, perform_take, takeInterrupt_abort]

/-- Settles O51: abort, then NMI, then IRQ while I = 0, then the next instruction. -/
theorem interruptPriority : Obligations.InterruptPriority := by
  intro s t seq hresb hstopped hwaiting hcut habort
  have hb : boundary s = (t, recognise t) :=
    boundary_running s hresb hcut (by simpa [t] using hstopped) (by simpa [t] using hwaiting)
  rw [recognise_eq habort] at hb
  refine ⟨fun ha => ?_, fun ha hn => ?_, fun ha hn hirq hI => ?_, fun ha hn hnone => ?_⟩
  · rw [ha] at hb
    exact step_take hb habort
  · rw [ha, hn] at hb
    exact step_take hb habort
  · rw [ha, hn, hirq, hI] at hb
    exact step_take hb habort
  · rw [ha, hn] at hb
    obtain hirq | hI := hnone
    · rw [hirq] at hb; exact hb
    · rw [hI, Bool.not_true, Bool.and_false] at hb; exact hb

/-- Settles O52: the latch takes the edge once per step. -/
theorem nmiEdge : Obligations.NmiEdge := by
  intro s hresb hstopped
  have hprev : s.sample.nmiPrev = s.nmiPrev := by unfold State.sample; split <;> rfl
  have hpending : s.sample.nmiPending = s.nmiPending := by unfold State.sample; split <;> rfl
  have hlatch : (boundary s).1.nmiPrev = s.sample.latchNmi.nmiPrev ∧
      (boundary s).1.nmiPending = s.sample.latchNmi.nmiPending := by
    obtain ⟨_, -, ⟨h, -⟩ | ⟨-, h, -⟩ | ⟨-, -, -, h, -⟩ | ⟨-, -, -, h, -⟩⟩ := boundary_cases s
    · rw [hresb] at h; cases h
    · rw [hstopped] at h; cases h
    · rw [h]
      obtain ⟨-, -, hw⟩ | ⟨-, hw⟩ := wakeUp_cases s.sample.latchNmi <;> rw [hw] <;> exact ⟨rfl, rfl⟩
    · rw [h]; exact ⟨rfl, rfl⟩
  rw [hlatch.1, hlatch.2, ← hprev, ← hpending]
  refine ⟨rfl, ?_⟩
  simp [State.latchNmi]

/-! ### STP and WAI -/

/-- Settles O55: a stopped processor only samples its inputs. -/
theorem stoppedOnlyReset : Obligations.StoppedOnlyReset := by
  intro s hstopped hresb hcut
  have hb := boundary_stopped s hresb hcut hstopped
  refine ⟨s.sample, by rw [step_eq, hb]; rfl, ?_, rfl⟩
  intro f hf
  unfold State.sample
  cases f with
  | pins | input | mem => simp at hf
  | _ => split <;> rfl

/-- Settles O56: the rows of R430. -/
theorem waitEnds : Obligations.WaitEnds := by
  intro s hwaiting hstopped hresb hcut t aborted awakened seq
  have hb : boundary s = wakeUp t := boundary_waiting s hresb hcut hstopped hwaiting
  have hpc : t.pc = s.pc := by simp [t]
  have hI : t.fI = s.fI := by simp [State.fI, t]
  have hawake : awake t = awakened := rfl
  have hwake : ∀ {a : Action}, (t.nmiPending = true ∨ t.pins.irqb = false) →
      (if aborted = true then Action.take .abort (t.pc - 1) else if t.nmiPending = true then .take .nmi t.pc
        else if t.fI = true then .run else .take .irq t.pc) = a → boundary s = (awakened, a) := by
    intro a hends ha
    obtain ⟨hn, hirq, -⟩ | ⟨-, hw⟩ := wakeUp_cases t
    · rw [hn, hirq] at hends; simp at hends
    · rw [hb, hw, hawake, ← ha]
  rw [hpc, hI] at hwake
  refine ⟨fun hn hirq => ?_, fun hends ha => ?_, fun hn ha => ?_, fun hn hirq ha hI0 => ?_, fun hn hirq ha hI1 => ?_⟩
  · obtain ⟨-, -, hw⟩ | ⟨hends, -⟩ := wakeUp_cases t
    · rw [step_eq, hb, hw]; rfl
    · rw [hn, hirq] at hends; simp at hends
  · exact step_takeAbort (hwake hends (if_pos ha))
  · exact step_take (hwake (.inl hn) (by rw [ha, hn]; rfl)) (Bool.or_eq_false_iff.1 ha).2
  · exact step_take (hwake (.inr hirq) (by rw [ha, hn, hI0]; rfl)) (Bool.or_eq_false_iff.1 ha).2
  · exact hwake (.inr hirq) (by rw [ha, hn, hI1]; rfl)

/-! ### An ABORTB pulse -/

/-- A processor that does not wait and whose boundary runs an instruction. -/
theorem boundary_run {s : State} (h : (boundary s).2 = .run) (hw : s.waiting = false) :
    s.stopped = false ∧ boundary s = (s.sample.latchNmi, .run) := by
  obtain ⟨a, ha, hcase⟩ := boundary_cases s
  have hrun : a = .run := by
    obtain hcut | ⟨n, -, -, hcut⟩ := cut_cases a s.sample.pins.resetAfter <;> rw [ha, hcut] at h
    · exact h
    · cases h
  subst hrun
  obtain ⟨-, -, hbad⟩ | ⟨-, -, -, hbad⟩ | ⟨-, -, hwait, -⟩ | ⟨-, hstopped, -, hstate, -⟩ := hcase
  · cases hbad
  · cases hbad
  · rw [hw] at hwait; cases hwait
  · exact ⟨hstopped, Prod.ext hstate h⟩

/-- What a boundary of a running processor and an ABORTB pulse keep. -/
theorem onlyChanges_suppress (s new : State) :
    OnlyChanges [.mem, .draws, .mxInvalid, .abortPending, .nmiPrev, .nmiPending, .pins, .input] s
      (suppress s.sample.latchNmi new) := by
  intro f hf
  cases f with
  | mem | draws | mxInvalid | abortPending | nmiPrev | nmiPending | pins | input => simp at hf
  | _ => simp [Field.same, suppress]

/-- The step after an aborted instruction takes the abort. -/
theorem step_of_abortPending {u : State} (hpending : u.abortPending = true) (hstopped : u.stopped = false)
    (hwaiting : u.waiting = false) :
    let w := u.sample.latchNmi
    w.pins.resb = true → w.pins.resetAfter = none → w.pins.abort = false →
      step u = .next { interrupt .abort u.pc w with mxInvalid := false } := by
  intro w hresb hcut habort
  have hw : w.abortPending = true := by
    have hsample : u.sample.abortPending = u.abortPending := by unfold State.sample; split <;> rfl
    rw [latchNmi_abortPending, hsample, hpending]
  have htaken := (interruptPriority u hresb (by simpa using hstopped) (by simpa using hwaiting) hcut habort).1 hw
  rwa [latchNmi_pc, sample_pc] at htaken

/-- Settles O53: the pulse keeps memory as the instruction left it and latches the abort. -/
theorem abortSuppresses : Obligations.AbortSuppresses := by
  intro s hrun hwaiting habort
  obtain ⟨hstopped, hb⟩ := boundary_run hrun hwaiting
  rw [hb]
  obtain ⟨v, hexec⟩ := execAlwaysNext s.sample.latchNmi.fetch s.sample.latchNmi
  have hstep : step s = .next (suppress s.sample.latchNmi (settleMX s.sample.latchNmi.fetch v)) := by
    rw [step_eq, hb, perform_run _ v hexec, settle_abort s.sample.latchNmi _ habort]
  have hframe := onlyChanges_suppress s (settleMX s.sample.latchNmi.fetch v)
  refine ⟨_, v, hstep, hexec, settleMX_mem v _, hframe, rfl, ?_⟩
  have hpc : (suppress s.sample.latchNmi (settleMX s.sample.latchNmi.fetch v)).pc = s.pc := hframe .pc (by decide)
  rw [← hpc]
  exact step_of_abortPending rfl ((hframe .stopped (by decide)).trans hstopped)
    ((hframe .waiting (by decide)).trans hwaiting)

/-! ### Reset -/

/-- Settles O10: the reset state, field by field. -/
theorem resetValues : Obligations.ResetValues := by
  refine ⟨rfl, rfl, rfl, ?_, ?_, ?_, rfl, ?_, ?_, ?_, ?_, rfl, rfl, rfl, rfl, ?_⟩ <;> decide

/-- The invariants of the mode bits hold after a reset, whatever the free values. -/
theorem modeInv_resetStep (s : State) : ModeInv (resetStep s) := by
  have hM : (resetStep s).fM = true := by simp [State.fM, resetStep, resetInit, resetStatus]
  have hX : (resetStep s).fX = true := by simp [State.fX, resetStep, resetInit, resetStatus]
  exact ⟨fun _ => ⟨hM, hX⟩, fun _ => hi_word _ _, fun _ => ⟨hi_word _ _, hi_word _ _⟩⟩

/-- Settles O11. -/
theorem resetInv : Obligations.ResetInv := by
  refine ⟨⟨fun _ => ?_, fun _ => ?_, fun _ => ?_⟩, rfl⟩ <;> decide

/-- What a reset initialises (10_state.md R60). -/
theorem resetStep_values (u : State) :
    let t := resetStep u
    t.d = 0x0000 ∧ t.dbr = 0x00 ∧ t.pbr = 0x00 ∧ hi t.sp = 0x01 ∧ hi t.x = 0x00 ∧ hi t.y = 0x00 ∧ t.e = true ∧
      t.fM = true ∧ t.fX = true ∧ t.fI = true ∧ t.fD = false ∧ t.waiting = false ∧ t.stopped = false ∧
      t.nmiPending = false ∧ t.abortPending = false := by
  obtain ⟨hmode, hstack, hindex⟩ := modeInv_resetStep u
  obtain ⟨hM, hX⟩ := hmode rfl
  obtain ⟨hx, hy⟩ := hindex hX
  have hI : (resetStep u).fI = true := by simp [State.fI, resetStep, resetInit, resetStatus]
  have hD : (resetStep u).fD = false := by simp [State.fD, resetStep, resetInit, resetStatus]
  exact ⟨rfl, rfl, rfl, hstack rfl, hx, hy, rfl, hM, hX, hI, hD, rfl, rfl, rfl, rfl⟩

/-- The memory and the answers a reset works on: those of the sample, or what the abandoned step had made of them. -/
def resetBase (s : State) : State :=
  match s.sample.pins.resetAfter with
  | none => s.sample
  | some n => abandoned n (actionCycles (decideAction s.sample).1 (decideAction s.sample).2) (decideAction s.sample).1

theorem decideAction_sampled (s : State) :
    (decideAction s.sample).1.pins = s.sample.pins ∧ (decideAction s.sample).1.mem = s.sample.mem :=
  ⟨boundary_pins s, boundary_mem s⟩

/-- Both cases of a reset, at the boundary and in the middle of a step, run the reset sequence on that base. -/
theorem step_reset {s : State} (h : s.sample.pins.resb = false ∨ s.sample.pins.resetAfter ≠ none)
    (hd : (decideAction s.sample).2 ≠ .abortDuringAbort) :
    ((boundary s).2 = .reset ∨ ∃ n a, (boundary s).2 = .abandon n a) ∧
      step s = .next { resetStep (resetBase s) with pins := s.sample.pins } := by
  unfold resetBase
  cases hcut : s.sample.pins.resetAfter with
  | none =>
    have hb := boundary_reset s (h.resolve_right (not_not_intro hcut)) hcut
    rw [step_eq, hb]
    exact ⟨.inl rfl, rfl⟩
  | some n =>
    have hb : boundary s = ((decideAction s.sample).1, .abandon n (decideAction s.sample).2) := by
      rw [boundary, hcut, Action.cut, if_neg hd]
    rw [step_eq, hb, ← (decideAction_sampled s).1]
    exact ⟨.inr ⟨_, _, rfl⟩, rfl⟩

theorem resetBase_mem (s : State) :
    (resetBase s).mem = match s.sample.pins.resetAfter with
      | none => s.sample.mem
      | some n => ((actionCycles (decideAction s.sample).1 (decideAction s.sample).2).take n).foldl BusCycle.apply
          s.sample.mem := by
  unfold resetBase
  cases s.sample.pins.resetAfter with
  | none => rfl
  | some n => rw [← (decideAction_sampled s).2]; rfl

theorem resetBase_answers (s : State) :
    (resetBase s).pins.answers = match s.sample.pins.resetAfter with
      | none => s.sample.pins.answers
      | some n => useCycles s.sample.pins.answers
          ((actionCycles (decideAction s.sample).1 (decideAction s.sample).2).take n) := by
  unfold resetBase
  cases s.sample.pins.resetAfter with
  | none => rfl
  | some n => rw [← (decideAction_sampled s).1]; rfl

/-- Settles O54: the sequence initialises the registers, fetches the vector and ends the step's bus cycles. -/
theorem resetStep_step : Obligations.ResetStep := by
  intro s d h hd
  obtain ⟨hreset, hstep⟩ := step_reset h hd
  obtain ⟨hD, hdbr, hpbr, hsp, hx, hy, he, hM, hX, hI, hfD, hwait, hstop, hnmi, habort⟩ := resetStep_values (resetBase s)
  refine ⟨_, hstep, hD, hdbr, hpbr, hsp, hx, hy, he, hM, hX, hI, hfD, hwait, hstop, hnmi, habort, ?_, rfl,
    resetBase_mem s, ?_⟩
  · intro answers
    have hanswers : answers = (resetBase s).pins.answers := (resetBase_answers s).symm
    rw [hanswers]
    rfl
  · obtain ⟨cs, u, hstep', hcycles⟩ := busCycles_reset s hreset
    have ht := Host.Outcome.next.inj (hstep.symm.trans hstep')
    rw [boundary_pins] at ht
    exact ⟨cs, u, hcycles, ht, resetInit_pinE u, resetInit_pinMX u, conditioningCycles_pins u⟩

end Sys2Proof.Machine

/-! PROOF. Every step keeps the invariants of the mode bits (10_state.md R34). -/

namespace Sys2Proof.Machine

/-! ### Instructions that touch none of them -/

theorem flagsWritten_of_not_touchesMode (mn : Mnemonic) : (mn.touchesMode || mn.flagsWritten &&& 0x30 == 0) = true := by
  cases mn <;> rfl

/-- The flags M and X are bits 5 and 4 of P. -/
theorem modeFlags_of_flagsKept {mask : Byte} {s t : State} (h : FlagsKept mask s t) (hmask : mask &&& 0x30 = 0) :
    t.fM = s.fM ∧ t.fX = s.fX := by
  have hmode : t.p &&& 0x30 = s.p &&& 0x30 := by
    have hall : ∀ m : Byte, m &&& 0x30 = 0 → ~~~m &&& 0x30 = 0x30 := by decide
    have hsub := hall mask hmask
    rw [FlagsKept] at h
    rw [← hsub, ← BitVec.and_assoc, ← BitVec.and_assoc, h]
  have hbit := fun i => congrArg (fun p : Byte => p.getLsbD i) hmode
  constructor
  · simpa [State.fM] using hbit 5
  · simpa [State.fX] using hbit 4

theorem modeInv_of_footprint {i : Instr} {s t : State} (hinv : ModeInv s) (h : exec i s = .next t)
    (hmn : i.mnemonic.touchesMode = false) : ModeInv t := by
  obtain ⟨hfields, hflags⟩ := exec_keeps h
  have hmask := flagsWritten_of_not_touchesMode i.mnemonic
  rw [hmn, Bool.false_or, beq_iff_eq] at hmask
  obtain ⟨hM, hX⟩ := modeFlags_of_flagsKept hflags hmask
  have hx : t.x = s.x := hfields .x hmn
  have hy : t.y = s.y := hfields .y hmn
  have hsp : t.sp = s.sp := hfields .sp hmn
  have he : t.e = s.e := exec_e h fun hxce => by rw [hxce] at hmn; cases hmn
  unfold ModeInv
  rwa [hM, hX, hx, hy, hsp, he]

/-! ### The others -/

/-- X or Y takes a value at its own width. -/
theorem modeInv_putX {s : State} (hinv : ModeInv s) (v w : Word) (n : Nat) :
    ModeInv (((s.setX s.wX v).setNZ s.wX w).advance n) := by
  simpa using modeInv_setX s s.wX v hinv (fun h => wX_narrow h)

theorem modeInv_putY {s : State} (hinv : ModeInv s) (v w : Word) (n : Nat) :
    ModeInv (((s.setY s.wX v).setNZ s.wX w).advance n) := by
  simpa using modeInv_setY s s.wX v hinv (fun h => wX_narrow h)

theorem modeInv_push {s : State} (hinv : ModeInv s) (w : Width) (v : Word) : ModeInv (push w v s) := by
  cases w
  · exact (modeInv_advance _ 1).2 (modeInv_push8 s (lo v) hinv)
  · exact (modeInv_advance _ 1).2 (modeInv_push16 s v hinv)

/-- What ends with `if E = 1 then SH <- 01` keeps the invariants, whatever S was in between. -/
theorem modeInv_of_fixSh {fields : List Field} {s t : State} (hinv : ModeInv s) (h : OnlyChanges fields s t)
    (hfields : [Field.p, .e, .x, .y].all (· ∉ fields) = true) : ModeInv t.fixSh := by
  simp only [List.all_cons, List.all_nil, Bool.and_true, Bool.and_eq_true, decide_eq_true_eq] at hfields
  obtain ⟨hp, he, hx, hy⟩ := hfields
  exact modeInv_of s t.fixSh hinv (h .p hp) (h .e he) (h .x hx) (h .y hy) (hi_forcedSp _ _)

theorem modeInv_exec_data {i : Instr} {o : Operand} {s t : State} (hinv : ModeInv s) (h : exec i s = .next t)
    (ho : i.operand? = some o) (hmn : i.mnemonic.touchesMode = true) : ModeInv t := by
  have hindex : ∀ mn ∈ dataMnemonics, mn.touchesMode = true → mn = .ldx ∨ mn = .ldy := by decide
  obtain hldx | hldy := hindex _ (mnemonic_of_operand ho) hmn
  · obtain rfl := Host.Outcome.next.inj (h.symm.trans (exec_ldx hldx ho))
    exact modeInv_putX hinv _ _ _
  · obtain rfl := Host.Outcome.next.inj (h.symm.trans (exec_ldy hldy ho))
    exact modeInv_putY hinv _ _ _

theorem modeInv_pullX {s : State} (hinv : ModeInv s) : ModeInv (pullX s) := by
  have hpull := modeInv_pull s s.wX hinv
  have hX : (s.pull s.wX).2.fX = s.fX := by simp [State.fX]
  have h := modeInv_setX _ s.wX (s.pull s.wX).1 hpull (fun h => wX_narrow (hX ▸ h))
  simpa [pullX] using h

theorem modeInv_pullY {s : State} (hinv : ModeInv s) : ModeInv (pullY s) := by
  have hpull := modeInv_pull s s.wX hinv
  have hX : (s.pull s.wX).2.fX = s.fX := by simp [State.fX]
  have h := modeInv_setY _ s.wX (s.pull s.wX).1 hpull (fun h => wX_narrow (hX ▸ h))
  simpa [pullY] using h

theorem modeInv_pullA {s : State} (hinv : ModeInv s) : ModeInv (pullA s) := by
  simpa [pullA] using modeInv_pull s s.wA hinv

theorem modeInv_blockMove {s : State} (hinv : ModeInv s) (d : Word) (dba sba : Byte) : ModeInv (blockMove d dba sba s) := by
  have hX := modeInv_setX ((s.setDbr dba).writeByte (addr dba s.y) (s.memRead .data (addr sba s.x))) s.wX (s.x + d)
    (by simpa using hinv) (fun h => wX_narrow h)
  have hXY := modeInv_setY _ s.wX (s.y + d) hX (fun h => wX_narrow h)
  unfold blockMove
  dsimp only
  split
  · simpa using hXY
  · simpa using hXY

theorem modeInv_pushWord {s : State} (hinv : ModeInv s) (len : Nat) (v : Word) : ModeInv (pushWord len v s) :=
  (modeInv_advance _ len).2 (modeInv_of_fixSh hinv (onlyChanges_pushN16 s v) rfl)

theorem modeInv_pullDbr {s : State} (hinv : ModeInv s) : ModeInv (pullDbr s) := by
  simpa [pullDbr] using modeInv_pull8 s hinv

theorem modeInv_pullStatus {s : State} (hinv : ModeInv s) : ModeInv (pullStatus s) :=
  (modeInv_advance _ 1).2 (modeInv_writeP _ s.pull8.1 (modeInv_pull8 s hinv))

theorem modeInv_pullDirect {s : State} (hinv : ModeInv s) : ModeInv (pullDirect s) := by
  have hpulled : ModeInv s.pullN16.2.fixSh := modeInv_of_fixSh hinv (onlyChanges_pullN16 s) rfl
  have hset : ModeInv (((s.pullN16.2.fixSh.setDirect s.pullN16.1).setNZ .w16 s.pullN16.1).advance 1) := by
    simpa using hpulled
  exact hset

theorem modeInv_pushByte {s : State} (hinv : ModeInv s) (v : Byte) : ModeInv (pushByte v s) :=
  (modeInv_advance _ 1).2 (modeInv_push8 s v hinv)

theorem modeInv_callAbs {s : State} (hinv : ModeInv s) (aa : Word) : ModeInv (callAbs aa s) :=
  (modeInv_jump _ aa).2 (modeInv_push16 s (s.pc + 2) hinv)

theorem modeInv_returnSub {s : State} (hinv : ModeInv s) : ModeInv (returnSub s) :=
  (modeInv_jump _ (s.pull16.1 + 1)).2 (modeInv_pull16 s hinv)

theorem modeInv_callLong {s : State} (hinv : ModeInv s) (al : Addr) : ModeInv (callLong al s) :=
  modeInv_of_fixSh hinv (((onlyChanges_callLongFrame s).trans (onlyChanges_jump _ (offOf al))).trans
    (onlyChanges_setPbr _ (refetch s (s.pushN8 s.pbr) 3 (bankOf al)))) rfl

theorem modeInv_callAbsIndX {s : State} (hinv : ModeInv s) (aa : Word) : ModeInv (callAbsIndX aa s) :=
  modeInv_of_fixSh hinv ((onlyChanges_pushN16 s (s.pc + 2)).trans (onlyChanges_jump _ ((s.pushN16 (s.pc + 2)).readAbsIndX
    (word (refetch s (s.pushN16 (s.pc + 2)) 2 (hi aa)) (lo aa))))) rfl

theorem modeInv_returnLong {s : State} (hinv : ModeInv s) : ModeInv (returnLong s) :=
  modeInv_of_fixSh hinv ((((onlyChanges_pullN16 s).trans (onlyChanges_pullN8 s.pullN16.2)).trans
    (onlyChanges_jump _ (s.pullN16.1 + 1))).trans (onlyChanges_setPbr _ s.pullN16.2.pullN8.1)) rfl

/-- The instructions without a data operand that touch S, X, Y, E, M or X. -/
theorem modeInv_exec_control {i : Instr} {s : State} (hinv : ModeInv s)
    (hi : (i.operand?.isNone && i.mnemonic.touchesMode) = true) : ∃ t, exec i s = .next t ∧ ModeInv t := by
  cases i with
  | inx | dex | tax | tsx | tyx => exact ⟨_, rfl, modeInv_putX hinv _ _ _⟩
  | iny | dey | tay | txy => exact ⟨_, rfl, modeInv_putY hinv _ _ _⟩
  | txs | tcs => exact ⟨_, rfl, modeInv_setSpMode s _ hinv⟩
  | xce => exact ⟨_, rfl, modeInv_setE _ _ ((modeInv_setC s s.e).2 hinv)⟩
  | rep _ | sep _ => exact ⟨_, rfl, modeInv_writeP s _ hinv⟩
  | plp => exact ⟨pullStatus s, rfl, modeInv_pullStatus hinv⟩
  | rti => exact ⟨returnFromInterrupt s, rfl, modeInv_returnFromInterrupt s hinv⟩
  | pha | phx | phy => exact ⟨push _ _ s, rfl, modeInv_push hinv _ _⟩
  | phb | phk | php => exact ⟨pushByte _ s, rfl, modeInv_pushByte hinv _⟩
  | phd | pea _ | pei _ | per _ => exact ⟨pushWord _ _ s, rfl, modeInv_pushWord hinv _ _⟩
  | pla => exact ⟨pullA s, rfl, modeInv_pullA hinv⟩
  | plx => exact ⟨pullX s, rfl, modeInv_pullX hinv⟩
  | ply => exact ⟨pullY s, rfl, modeInv_pullY hinv⟩
  | plb => exact ⟨pullDbr s, rfl, modeInv_pullDbr hinv⟩
  | pld => exact ⟨pullDirect s, rfl, modeInv_pullDirect hinv⟩
  | jsrAbs aa => exact ⟨callAbs aa s, rfl, modeInv_callAbs hinv aa⟩
  | jsrAbsIndX aa => exact ⟨callAbsIndX aa s, rfl, modeInv_callAbsIndX hinv aa⟩
  | jsl al => exact ⟨callLong al s, rfl, modeInv_callLong hinv al⟩
  | rts => exact ⟨returnSub s, rfl, modeInv_returnSub hinv⟩
  | rtl => exact ⟨returnLong s, rfl, modeInv_returnLong hinv⟩
  | brk _ | cop _ => exact ⟨interrupt _ _ s, rfl, modeInv_interrupt _ _ s hinv⟩
  | mvn dba sba => exact ⟨_, exec_mvn dba sba s, modeInv_blockMove hinv _ _ _⟩
  | mvp dba sba => exact ⟨_, exec_mvp dba sba s, modeInv_blockMove hinv _ _ _⟩
  | _ => cases hi

theorem modeInv_exec {i : Instr} {s t : State} (hinv : ModeInv s) (h : exec i s = .next t) : ModeInv t := by
  cases hmn : i.mnemonic.touchesMode with
  | false => exact modeInv_of_footprint hinv h hmn
  | true =>
    cases ho : i.operand? with
    | some o => exact modeInv_exec_data hinv h ho hmn
    | none =>
      obtain ⟨u, hexec, hu⟩ := modeInv_exec_control (i := i) hinv (by rw [ho, hmn]; rfl)
      exact Host.Outcome.next.inj (h.symm.trans hexec) ▸ hu

/-! ### The step -/

theorem modeInv_settle {s t : State} (hs : ModeInv s) (ht : ModeInv t) : ModeInv (settle s t) := by
  obtain h | h := settle_eq s t <;> rw [h]
  · exact ht
  · exact hs

theorem modeInv_takeInterrupt {s : State} (hinv : ModeInv s) (k : IntKind) (r : Word) : ModeInv (takeInterrupt k r s) := by
  have hinterrupt : ModeInv { interrupt k r s with mxInvalid := false } := modeInv_interrupt k r s hinv
  obtain h | h := takeInterrupt_eq k r s <;> rw [h]
  · exact hinterrupt
  · exact modeInv_settle hinv hinterrupt

theorem modeInv_boundary {s : State} (hinv : ModeInv s) : ModeInv (boundary s).1 := by
  refine modeInv_of s _ hinv (boundary_p s) (boundary_e s) (boundary_x s) (boundary_y s) fun he => ?_
  rw [boundary_sp]
  exact hinv.2.1 ((boundary_e s).symm.trans he)

/-- Settles O8: whatever the boundary decides, what is performed keeps the invariants. -/
theorem stepKeepsModeInv : Obligations.StepKeepsModeInv := by
  intro s t hinv h
  have hperforms := performs_of_step h
  have hu := modeInv_boundary hinv
  generalize (boundary s).1 = u at *
  generalize (boundary s).2 = a at *
  cases hperforms with
  | reset => exact modeInv_resetStep u
  | stopped => exact hu
  | waiting => exact hu
  | take k r => exact modeInv_takeInterrupt hu k r
  | abandon n a => exact modeInv_resetStep (abandoned n (actionCycles u a) u)
  | run v hexec => exact modeInv_settle hu ((modeInv_settleMX v _).2 (modeInv_exec hu hexec))

end Sys2Proof.Machine

/-! PROOF. The write cycles of a step give the memory after it (20_memory.md R79, R82), and memory keeps its canonical form
(20_memory.md section 1). -/

namespace Sys2Proof.Machine

/-- Cycles that change no memory before others. -/
theorem applyAll_quiet_append (cs ds : List BusCycle) (m : List Host.Cell) (h : Quiet cs) :
    applyCycles m (cs ++ ds) = applyCycles m ds := by
  rw [applyAll_append, applyAll_quiet cs m h]

/-! ### Instructions with a data operand -/

/-- The width and the value of the four stores. -/
theorem exec_of_write {i : Instr} {m : MemMode} (s : State) (ho : i.operand? = some (.mem m)) (hacc : i.mnemonic.access = .write) :
    exec i s = .next (store (i.mnemonic.width s) m (writtenValue i.mnemonic s 0) s) := by
  have hmem := mnemonic_of_operand ho
  have hmn : ∀ mn ∈ dataMnemonics, mn.access = .write → mn = .sta ∨ mn = .stx ∨ mn = .sty ∨ mn = .stz := by decide
  rw [exec_data i (.mem m) s ho]
  obtain h | h | h | h := hmn _ hmem hacc <;> rw [h] <;> rfl

/-- A read-modify-write leaves memory as its write-back does. -/
theorem mem_of_modify {i : Instr} {m : MemMode} {s t : State} (ho : i.operand? = some (.mem m))
    (hacc : i.mnemonic.access = .modify) (h : exec i s = .next t) :
    t.mem = (s.writeBack s.wA (m.loc s) (writtenValue i.mnemonic s (s.loadLoc .locked s.wA (m.loc s)))).mem := by
  have hmem := mnemonic_of_operand ho
  have hmn : ∀ mn ∈ dataMnemonics, mn.access = .modify → mn = .asl ∨ mn = .lsr ∨ mn = .rol ∨ mn = .ror ∨ mn = .inc ∨
      mn = .dec ∨ mn = .tsb ∨ mn = .trb := by decide
  have hexec := exec_data i (.mem m) s ho
  have ht := Host.Outcome.next.inj (h.symm.trans hexec)
  obtain h | h | h | h | h | h | h | h := hmn _ hmem hacc <;> rw [h] at ht ⊢ <;> subst ht <;>
    simp [dataMeaning, shiftMemory, stepMemory, testBits, writtenValue, Operand.mode]

theorem mem_of_not_stores {i : Instr} {s t : State} (h : exec i s = .next t) (hstores : i.mnemonic.stores = false) :
    t.mem = s.mem := (exec_keeps h).1 .mem hstores

/-- An instruction that only reads its operand stores nothing. -/
theorem not_stores_of_read {i : Instr} {o : Operand} (ho : i.operand? = some o) (hacc : i.mnemonic.access = .read) :
    i.mnemonic.stores = false := by
  have hmn : ∀ mn ∈ dataMnemonics, mn.access = .read → mn.stores = false := by decide
  exact hmn _ (mnemonic_of_operand ho) hacc

/-- An immediate is only read. -/
theorem access_of_imm {i : Instr} {v : Word} (ho : i.operand? = some (.imm v)) : i.mnemonic.access = .read := by
  have hmn : ∀ mn ∈ [Mnemonic.ora, .and, .eor, .adc, .bit, .ldy, .ldx, .lda, .cpy, .cmp, .cpx, .sbc], mn.access = .read := by
    decide
  exact hmn _ (imm_mnemonic i v ho)

theorem width_of_modify {i : Instr} {o : Operand} (ho : i.operand? = some o) (hacc : i.mnemonic.access = .modify)
    (s : State) : i.mnemonic.width s = s.wA := by
  have hmn : ∀ mn ∈ dataMnemonics, mn.access = .modify → mn.usesX = false := by decide
  rw [Mnemonic.width, hmn _ (mnemonic_of_operand ho) hacc]
  rfl

/-- The cycles of an instruction with a memory operand are its mode's, which write nothing, and its data accesses. -/
theorem applyAll_operandCycles (mn : Mnemonic) (m : MemMode) (s : State) (mem : List Host.Cell) :
    applyCycles mem (operandCycles mn (.mem m) s) = applyCycles mem (dataCycles mn s m) :=
  applyAll_quiet_append (opcodeCycle s :: m.cycles mn.access s) _ mem (by simp)

theorem quiet_operandCycles_imm (mn : Mnemonic) (v : Word) (s : State) : Quiet (operandCycles mn (.imm v) s) := by
  unfold operandCycles
  cases mn.width s <;> simp

theorem applyAll_data {i : Instr} {o : Operand} {s t : State} (ho : i.operand? = some o) (h : exec i s = .next t) :
    applyCycles s.mem (operandCycles i.mnemonic o s) = t.mem := by
  cases o with
  | imm v =>
    rw [applyAll_quiet _ _ (quiet_operandCycles_imm _ v s), mem_of_not_stores h (not_stores_of_read ho (access_of_imm ho))]
  | mem m =>
    rw [applyAll_operandCycles, dataCycles]
    cases hacc : i.mnemonic.access with
    | read => rw [applyAll_quiet _ _ (quiet_readCycles _ _ _), mem_of_not_stores h (not_stores_of_read ho hacc)]
    | write =>
      obtain rfl := Host.Outcome.next.inj (h.symm.trans (exec_of_write s ho hacc))
      exact applyAll_writeCycles s _ _ _
    | modify =>
      rw [mem_of_modify ho hacc h, width_of_modify ho hacc]
      exact applyAll_modifyCycles s _ _ _

/-! ### Instructions without a data operand -/

theorem quiet_twoCycles (s : State) : Quiet [opcodeCycle s, internalAt s 1] := by simp

theorem quiet_pullTrace (s : State) (cs : List BusCycle) (h : Quiet cs) : Quiet (pullTrace s cs) := by
  simpa [pullTrace] using h

/-- The cycles of one that does not store write nothing. -/
theorem quiet_controlCycles {i : Instr} (s : State) (hi : (i.operand?.isNone && !i.mnemonic.stores) = true) :
    Quiet (controlCycles i s) := by
  cases i with
  | bcc _ | bcs _ | beq _ | bmi _ | bne _ | bpl _ | bvc _ | bvs _ | bra _ => exact quiet_branchTrace _ _ s
  | rtl | pld => exact quiet_pullTrace s _ (quiet_pullsN s _)
  | rti | pla | plx | ply | plb | plp => exact quiet_pullTrace s _ (quiet_pulls s _)
  | rts | jmpAbs _ | jmpLong _ | jmpAbsInd _ | jmpAbsIndX _ | jml _ | brl _ | rep _ | sep _ | wdm _ | xba | stp | wai =>
    simp only [controlCycles]
    simp
  | clc | tcs | sec | tsc | cli | tcd | sei | tdc | dey | txa | tya | txs | txy | tay | tax | clv | tsx | tyx | iny | dex
  | cld | inx | nop | sed | xce => exact quiet_twoCycles s
  | _ => cases hi

/-- The first two cycles of a push write nothing. -/
theorem applyAll_pushTrace (s : State) (writes : List BusCycle) (m : List Host.Cell) :
    applyCycles m (pushTrace s writes) = applyCycles m writes :=
  applyAll_quiet_append [opcodeCycle s, internalAt s 1] writes m (quiet_twoCycles s)

/-- The cycles of a push write the bytes in push order. -/
theorem applyAll_push (s : State) (w : Width) (v : Word) :
    applyCycles s.mem (pushTrace s (s.pushes (pushBytes w v))) = (push w v s).mem := by
  rw [applyAll_pushTrace, applyAll_pushes]
  cases w <;> rfl

theorem applyAll_pushByte (s : State) (v : Byte) :
    applyCycles s.mem (pushTrace s (s.pushes [v])) = (pushByte v s).mem := by
  rw [applyAll_pushTrace, applyAll_pushes]
  rfl

/-- PHD, PEA, PEI and PER: some cycles that write nothing, then the two pushes. -/
theorem applyAll_pushWord (s : State) (cs : List BusCycle) (len : Nat) (v : Word) (h : Quiet cs) :
    applyCycles s.mem (cs ++ s.pushesN [hi v, lo v]) = (pushWord len v s).mem := by
  rw [applyAll_quiet_append cs _ _ h, applyAll_pushesN]
  rfl

theorem applyAll_callAbs (aa : Word) (s : State) :
    applyCycles s.mem (controlCycles (.jsrAbs aa) s) = (callAbs aa s).mem := by
  have h := applyAll_quiet_append [opcodeCycle s, operandCycle s 1, operandCycle s 2, internalAt s 2]
    (s.pushes [hi (s.pc + 2), lo (s.pc + 2)]) s.mem (by simp)
  rw [applyAll_pushes] at h
  exact h

/-- JSR `(a,x)` writes between its two operand bytes, and nothing after that. -/
theorem applyAll_callIndXTrace (aa : Word) (s : State) :
    applyCycles s.mem (callIndXTrace aa s) = (callAbsIndX aa s).mem := by
  have hpush := applyAll_quiet_append [opcodeCycle s, operandCycle s 1] (s.pushesN [hi (s.pc + 2), lo (s.pc + 2)]) s.mem
    (by simp)
  rw [applyAll_pushesN] at hpush
  refine (applyAll_append s.mem _ _).trans ((applyAll_quiet _ _ (by simp)).trans hpush)

/-- JSL writes the bank, then, after its last operand byte, the address. -/
theorem applyAll_callLongTrace (al : Addr) (s : State) :
    applyCycles s.mem (callLongTrace s) = (callLong al s).mem := by
  have hbank := applyAll_quiet_append [opcodeCycle s, operandCycle s 1, operandCycle s 2] (s.pushesN [s.pbr]) s.mem
    (by simp)
  have hpush := applyAll_quiet_append [internalCycle (addr 0 s.sp), operandCycle (s.pushN8 s.pbr) 3]
    ((s.pushN8 s.pbr).pushesN [hi (s.pc + 3), lo (s.pc + 3)]) (s.pushN8 s.pbr).mem (by simp)
  rw [applyAll_pushesN] at hbank hpush
  refine (applyAll_append s.mem _ _).trans ?_
  exact (congrArg (applyCycles · _) hbank).trans hpush

theorem shiftA_mem (f : Width → Bool → Word → Shift) (s : State) : (shiftA f s).mem = s.mem := by simp [shiftA]
theorem stepA_mem (f : Width → Word → Word) (s : State) : (stepA f s).mem = s.mem := by simp [stepA]

/-- The instructions without a data operand whose mnemonic stores: their cycles write what they store. -/
theorem applyAll_control {i : Instr} (s : State) (hi : (i.operand?.isNone && i.mnemonic.stores) = true) :
    ∃ t, exec i s = .next t ∧ applyCycles s.mem (controlCycles i s) = t.mem := by
  cases i with
  | aslAcc | lsrAcc | rolAcc | rorAcc =>
    exact ⟨shiftA _ s, rfl, (applyAll_quiet _ _ (quiet_twoCycles s)).trans (shiftA_mem _ s).symm⟩
  | incAcc | decAcc =>
    exact ⟨stepA _ s, rfl, (applyAll_quiet _ _ (quiet_twoCycles s)).trans (stepA_mem _ s).symm⟩
  | pha | phx | phy => exact ⟨push _ _ s, rfl, applyAll_push s _ _⟩
  | phb | phk | php => exact ⟨pushByte _ s, rfl, applyAll_pushByte s _⟩
  | phd => exact ⟨pushWord 1 s.d s, rfl, applyAll_pushWord s [opcodeCycle s, internalAt s 1] 1 s.d (by simp)⟩
  | pea aa =>
    exact ⟨pushWord 3 aa s, rfl,
      applyAll_pushWord s [opcodeCycle s, operandCycle s 1, operandCycle s 2] 3 aa (by simp)⟩
  | pei d =>
    exact ⟨pushWord 2 (s.readPtr16 (dirLongLoc s d)) s, rfl, applyAll_pushWord s
      (opcodeCycle s :: operandCycle s 1 :: dlCycle s ++ pointerCycles s (dirLongLoc s d)) 2 _ (by simp)⟩
  | per off =>
    exact ⟨pushWord 3 (relLongTarget s off) s, rfl, applyAll_pushWord s
      [opcodeCycle s, operandCycle s 1, operandCycle s 2, internalAt s 2] 3 _ (by simp)⟩
  | jsrAbs aa => exact ⟨callAbs aa s, rfl, applyAll_callAbs aa s⟩
  | jsrAbsIndX aa => exact ⟨callAbsIndX aa s, rfl, applyAll_callIndXTrace aa s⟩
  | jsl al => exact ⟨callLong al s, rfl, applyAll_callLongTrace al s⟩
  | brk sig => exact ⟨_, exec_brk sig s, applyAll_frameCycles .brk (s.pc + 2) s⟩
  | cop sig => exact ⟨_, exec_cop sig s, applyAll_frameCycles .cop (s.pc + 2) s⟩
  | mvn dba sba => exact ⟨_, exec_mvn dba sba s, (blockMove_mem _ dba sba s).symm⟩
  | mvp dba sba => exact ⟨_, exec_mvp dba sba s, (blockMove_mem _ dba sba s).symm⟩
  | _ => cases hi

/-! ### The step -/

/-- The cycles of an instruction write what it stores. -/
theorem applyAll_instrCycles {i : Instr} {s t : State} (h : exec i s = .next t) :
    applyCycles s.mem (instrCycles i s) = t.mem := by
  unfold instrCycles
  cases ho : i.operand? with
  | some o => exact applyAll_data ho h
  | none =>
    cases hstores : i.mnemonic.stores with
    | false =>
      rw [mem_of_not_stores h hstores]
      exact applyAll_quiet _ _ (quiet_controlCycles s (by rw [ho, hstores]; rfl))
    | true =>
      obtain ⟨u, hexec, hmem⟩ := applyAll_control (i := i) s (by rw [ho, hstores]; rfl)
      rw [Host.Outcome.next.inj (h.symm.trans hexec)]
      exact hmem

/-- The cycles of an interrupt sequence write its frame. -/
theorem applyAll_interruptCycles (k : IntKind) (r : Word) (s : State) :
    applyCycles s.mem (interruptCycles k r s) = (takeInterrupt k r s).mem := by
  have hmem : (interrupt k r s).mem = (pushFrame k r s).mem := by simp [interrupt]
  rw [takeInterrupt_mem, hmem, ← applyAll_frameCycles]
  exact applyAll_quiet_append [leadInCycle (addr s.pbr s.pc), internalCycle (addr s.pbr s.pc)] _ _ (by simp)

/-- The cycles of an action write what it stores. -/
theorem applyAll_actionCycles {s t : State} {a : Action} (h : Performs s a t) :
    applyCycles s.mem (actionCycles s a) = t.mem := by
  cases h with
  | reset => exact applyAll_quiet _ _ (quiet_resetCycles s)
  | stopped => rfl
  | waiting => rfl
  | take k r => exact applyAll_interruptCycles k r s
  | abandon n a =>
    rw [abandonStep_mem]
    exact (applyAll_append _ _ _).trans (applyAll_quiet _ _ (quiet_resetCycles _))
  | run u hexec =>
    rw [settle_mem, settleMX_mem]
    exact applyAll_instrCycles hexec

/-- The two cycles in which a waiting processor wakes write nothing. -/
theorem applyAll_busCycles (s : State) (m : List Host.Cell) :
    applyCycles m (busCycles s) = applyCycles m (actionCycles (boundary s).1 (boundary s).2) := by
  unfold busCycles
  dsimp only
  split
  · exact applyAll_quiet_append _ _ m (by simp)
  · rfl

/-- Settles O58: the valid writes of the step's cycles are its stores, action by action. -/
theorem busWritesExplainMemory : Obligations.BusWritesExplainMemory := by
  intro s t h
  have hmem := applyAll_actionCycles (performs_of_step h)
  rw [boundary_mem] at hmem
  exact ((applyAll_busCycles s s.sample.mem).trans hmem).symm

/-! ### The canonical form of memory -/

/-- Settles O9: memory after a step is made of writes on the bus, and each keeps the canonical form. -/
theorem stepKeepsMemInv : Obligations.StepKeepsMemInv := by
  intro s t hs h
  have hsample : Memory.wf s.sample.mem = true := by
    unfold State.sample
    split
    · exact hs
    · exact Memory.wf_change _ _ hs
  rw [MemInv, busWritesExplainMemory s t h]
  exact wf_applyCycles _ _ hsample

end Sys2Proof.Machine

/-! PROOF. The number of bus cycles of every instruction and interrupt sequence (71_bus_cycles.md R601, R645). -/

namespace Sys2Proof.Machine

/-! ### Instructions with a data operand -/

theorem plus_false (n : Nat) : plus false n = 0 := rfl

/-- The opcode fetch, the cycles of a mode and one data byte are the base count and the adjustments of rows 3 and 4. -/
theorem length_modeCycles (m : MemMode) (acc : Access) (s : State) :
    (m.cycles acc s).length + 2 =
      m.baseCount + plus (m.usesD && lo s.d != 0) 1 + plus (indexExtra s acc (m.indexed? s)) 1 := by
  cases m with
  | abs _ | long _ | longX _ | sr _ | srIndY _ => rfl
  | absX _ | absY _ =>
    simp [MemMode.cycles, MemMode.baseCount, MemMode.usesD, MemMode.indexed?, plus_false]
    omega
  | dir _ | dirX _ | dirY _ | dirInd _ | dirIndX _ | dirIndLong _ | dirIndLongY _ =>
    simp [MemMode.cycles, MemMode.baseCount, MemMode.usesD, MemMode.indexed?, indexExtra, pointerCycles,
      pointerLongCycles, plus_false]
    omega
  | dirIndY _ =>
    simp [MemMode.cycles, MemMode.baseCount, MemMode.usesD, MemMode.indexed?, pointerCycles]
    omega

/-- One data byte more at width 16, and for a read-modify-write the modify cycle and the write-back. -/
theorem length_dataCycles (mn : Mnemonic) (s : State) (m : MemMode) :
    (dataCycles mn s m).length =
      1 + if mn.access == .modify then 2 + plus (mn.width s == .w16) 2 else plus (mn.width s == .w16) 1 := by
  unfold dataCycles
  dsimp only
  cases mn.access <;> cases mn.width s <;> rfl

theorem length_operandCycles (mn : Mnemonic) (o : Operand) (s : State) :
    (operandCycles mn o s).length = operandCount mn o s := by
  cases o with
  | imm v =>
    unfold operandCycles operandCount
    cases mn.width s <;> rfl
  | mem m =>
    have hlength : (operandCycles mn (.mem m) s).length = 1 + (m.cycles mn.access s).length + (dataCycles mn s m).length := by
      change (opcodeCycle s :: m.cycles mn.access s ++ dataCycles mn s m).length = _
      rw [List.length_append, List.length_cons, Nat.add_comm 1]
    have hmode := length_modeCycles m mn.access s
    rw [hlength, length_dataCycles]
    unfold operandCount
    dsimp only
    omega

/-! ### Instructions without a data operand -/

theorem length_pushBytes (w : Width) (v : Word) : (pushBytes w v).length = widthBytes w := by cases w <;> rfl

theorem widthBytes_wA (s : State) : widthBytes s.wA = 1 + plus (!s.fM) 1 := by
  unfold State.wA
  cases s.fM <;> rfl

theorem widthBytes_wX (s : State) : widthBytes s.wX = 1 + plus (!s.fX) 1 := by
  unfold State.wX
  cases s.fX <;> rfl

theorem length_pushTrace (s : State) (w : Width) (v : Word) :
    (pushTrace s (s.pushes (pushBytes w v))).length = 2 + widthBytes w := by
  rw [pushTrace, List.length_cons, List.length_cons, length_pushes, length_pushBytes]
  omega

theorem length_pullTrace (s : State) (n : Nat) : (pullTrace s (s.pulls n)).length = 3 + n := by
  rw [pullTrace, List.length_cons, List.length_cons, List.length_cons, length_pulls]
  omega

/-- The stack and vector cycles of an interrupt sequence. -/
theorem length_frameCycles (k : IntKind) (r : Word) (s : State) : (frameCycles k r s).length = 5 + plus (!s.e) 1 := by
  unfold frameCycles
  dsimp only
  rw [List.length_append, length_pushes]
  cases s.e <;> rfl

theorem length_pei (d : Byte) (s : State) : (controlCycles (.pei d) s).length = 6 + plus (lo s.d != 0) 1 := by
  have hlength : (controlCycles (.pei d) s).length = 2 + (dlCycle s).length + 4 := by
    simp only [controlCycles, List.cons_append, List.length_cons, List.length_append, length_pushesN, pointerCycles,
      List.length_nil]
    omega
  rw [hlength, length_dlCycle]
  omega

theorem length_controlCycles {i : Instr} (s : State) (ho : i.operand? = none) :
    (controlCycles i s).length = controlCount i s := by
  cases i with
  | bcc _ | bcs _ | beq _ | bmi _ | bne _ | bpl _ | bvc _ | bvs _ | bra _ => exact length_branchTrace _ _ s
  | pha => exact (length_pushTrace s s.wA s.c).trans (by rw [widthBytes_wA]; simp only [controlCount]; omega)
  | phx => exact (length_pushTrace s s.wX s.x).trans (by rw [widthBytes_wX]; simp only [controlCount]; omega)
  | phy => exact (length_pushTrace s s.wX s.y).trans (by rw [widthBytes_wX]; simp only [controlCount]; omega)
  | pla => exact (length_pullTrace s _).trans (by rw [widthBytes_wA]; simp only [controlCount]; omega)
  | plx | ply => exact (length_pullTrace s _).trans (by rw [widthBytes_wX]; simp only [controlCount]; omega)
  | plb | plp => exact length_pullTrace s 1
  | rti =>
    refine (length_pullTrace s _).trans ?_
    simp only [controlCount]
    cases s.e <;> rfl
  | brk _ | cop _ =>
    simp only [controlCycles, controlCount, List.length_cons, length_frameCycles]
    omega
  | pei d => exact length_pei d s
  | aslAcc | clc | incAcc | tcs | rolAcc | sec | decAcc | tsc | lsrAcc | cli | tcd | rorAcc | sei | tdc | dey | txa | tya
  | txs | txy | tay | tax | clv | tsx | tyx | iny | dex | cld | inx | nop | sed | xce | xba | stp | wai | wdm _ | rep _
  | sep _ | mvn _ _ | mvp _ _ | brl _ | jmpAbs _ | jmpLong _ | jmpAbsInd _ | jmpAbsIndX _ | jml _ | jsrAbs _
  | jsrAbsIndX _ | jsl _ | rts | rtl | phb | phk | php | phd | pld | pea _ | per _ => rfl
  | _ => cases ho

/-- Settles O60: instruction by instruction, and the sequences of the interrupts and of a reset. -/
theorem cycleCounts : Obligations.CycleCounts := by
  refine ⟨fun i s => ?_, fun k r s => ?_, fun s => ⟨rfl, rfl⟩⟩
  · unfold instrCycles instrCount
    cases ho : i.operand? with
    | some o => exact length_operandCycles i.mnemonic o s
    | none => exact length_controlCycles s ho
  · rw [interruptCycles, List.length_cons, List.length_cons, length_frameCycles]
    cases s.e <;> rfl

end Sys2Proof.Machine

/-! PROOF. The addresses of the fifteen memory modes as numbers (31_addressing_modes.md R130, R131, R135 to R139, R142 to R149, R153,
R154). -/

namespace Sys2Proof.Machine

/-! ### The data byte at an address given as a number -/

/-- The data byte at an address given as a number, as a number. -/
def dataAt (s : State) (p : Nat) : Nat := (s.memRead .data (BitVec.ofNat 24 p)).toNat

theorem memRead_toNat (s : State) {a : Addr} {p : Nat} (h : a.toNat = p) : (s.memRead .data a).toNat = dataAt s p := by
  rw [dataAt, ← h, BitVec.ofNat_toNat, BitVec.setWidth_eq]

/-- A 16-bit pointer by the addresses of its bytes. -/
theorem readPtr16_eq (s : State) {l : Loc} {p q : Nat} (h0 : l.a0.toNat = p) (h1 : l.a1.toNat = q) :
    (s.readPtr16 l).toNat = dataAt s p + 256 * dataAt s q := by
  rw [readPtr16_toNat, memRead_toNat s h0, memRead_toNat s h1]

/-- A 24-bit pointer by the addresses of its bytes. -/
theorem readPtr24_eq (s : State) {l : Loc} {p q r : Nat} (h0 : l.a0.toNat = p) (h1 : l.a1.toNat = q)
    (h2 : (l.succ.apply l.a1).toNat = r) :
    (s.readPtr24 l).toNat = dataAt s p + 256 * dataAt s q + 65536 * dataAt s r := by
  rw [readPtr24_toNat, memRead_toNat s h0, memRead_toNat s h1, memRead_toNat s h2]

/-! ### Linear locators -/

/-- Without an index the locator is at its base. -/
theorem linLoc_zero_a0 (b : Addr) : (linLoc b 0).a0.toNat = b.toNat := by
  rw [linLoc_a0]
  exact Nat.mod_eq_of_lt b.isLt

/-- An address in the data bank plus an index. -/
theorem linLoc_addr_a0 (b : Byte) (v i : Word) {n : Nat} (hv : v.toNat = n) :
    (linLoc (addr b v) i).a0.toNat = (b.toNat * 65536 + n + i.toNat) % 2 ^ 24 := by
  rw [linLoc_a0, addr_toNat, hv]

theorem linLoc_addr_zero_a0 (b : Byte) (v : Word) {n : Nat} (hv : v.toNat = n) :
    (linLoc (addr b v) 0).a0.toNat = b.toNat * 65536 + n := by
  rw [linLoc_zero_a0, addr_toNat, hv]

/-! ### The pointers of the indirect modes -/

theorem dirLoc_pointer (s : State) (d : Byte) (i : Word) :
    let dp := fun k : Nat => if s.e = true ∧ lo s.d = 0 then s.d.toNat + (d.toNat + k) % 256
      else (s.d.toNat + d.toNat + k) % 65536
    (s.readPtr16 (dirLoc s d i)).toNat = dataAt s (dp i.toNat) + 256 * dataAt s (dp (i.toNat + 1)) :=
  readPtr16_eq s (dirLoc_a0 s d i) (dirLoc_a1 s d i)

theorem srLoc_pointer (s : State) (so : Byte) :
    let sr := fun k : Nat => (s.sp.toNat + so.toNat + k) % 65536
    (s.readPtr16 (srLoc s so)).toNat = dataAt s (sr 0) + 256 * dataAt s (sr 1) :=
  readPtr16_eq s (srLoc_a0 s so) (srLoc_a1 s so)

theorem dirLongLoc_pointer (s : State) (d : Byte) :
    let dl := fun k : Nat => (s.d.toNat + d.toNat + k) % 65536
    (s.readPtr24 (dirLongLoc s d)).toNat =
      dataAt s (dl 0) + 256 * dataAt s (dl 1) + 65536 * dataAt s (dl 2) :=
  readPtr24_eq s (dirLongLoc_a0 s d) (dirLongLoc_a1 s d) (dirLongLoc_a2 s d)

/-- Settles O15: mode by mode, each the number of its locator. -/
theorem effectiveAddresses : Obligations.EffectiveAddresses := by
  intro s aa al d so a0 a1 rd ptr dl dp sr bank
  refine ⟨linLoc_addr_zero_a0 s.dbr aa rfl, linLoc_addr_a0 s.dbr aa s.x rfl, linLoc_addr_a0 s.dbr aa s.y rfl,
    linLoc_zero_a0 al, linLoc_a0 al s.x, dirLoc_a0 s d 0, dirLoc_a1 s d 0, dirLoc_a0 s d s.x, dirLoc_a1 s d s.x,
    dirLoc_a0 s d s.y, dirLoc_a1 s d s.y, ?_, ?_, ?_, ?_, ?_, srLoc_a0 s so, srLoc_a1 s so, ?_, ?_⟩
  · exact linLoc_addr_zero_a0 s.dbr _ (dirLoc_pointer s d 0)
  · exact linLoc_addr_zero_a0 s.dbr _ (dirLoc_pointer s d s.x)
  · exact linLoc_addr_a0 s.dbr _ s.y (dirLoc_pointer s d 0)
  · exact (linLoc_zero_a0 _).trans (dirLongLoc_pointer s d)
  · exact (linLoc_a0 _ s.y).trans (by rw [dirLongLoc_pointer s d]; rfl)
  · exact linLoc_addr_a0 s.dbr _ s.y (srLoc_pointer s so)
  · intro m hm
    simp only [List.mem_cons, List.not_mem_nil, or_false] at hm
    obtain rfl | rfl | rfl | rfl | rfl | rfl | rfl | rfl | rfl | rfl | rfl := hm <;> exact linLoc_a1 _ _

end Sys2Proof.Machine

/-! PROOF. Every valid read cycle of a step shows the platform's answer, or the byte memory holds at its turn (20_memory.md R77, R82;
65_pins_and_bus.md R467 a). -/

namespace Sys2Proof.Machine

/-! ### Lists of cycles that read no address twice in cycles of one kind -/

/-- No address is read twice in cycles of one kind, so that no read meets an answer another one has used. -/
def ReadsApart (cs : List BusCycle) : Prop := ∀ k, (readsOf k cs).Nodup

/-- Cycles that write nothing, each showing what its state gives, before others. -/
theorem readsFixed_shown_append {an : List Answer} {m : List Host.Cell} {cs ds : List BusCycle} (hq : Quiet cs)
    (hs : Shown an m cs) (hds : ReadsFixed an m ds) : ReadsFixed an m (cs ++ ds) := by
  rw [readsFixed_append, applyAll_quiet cs m hq]
  exact ⟨readsFixed_quiet an m cs hq hs, hds⟩

theorem readsSee_shown {an : List Answer} {m : List Host.Cell} {cs : List BusCycle} (hq : Quiet cs) (hs : Shown an m cs)
    (hn : ReadsApart cs) : ReadsSeeMemory an m cs :=
  readsSeeMemory_fixed an m cs (readsFixed_quiet an m cs hq hs) hn

/-! ### Stack addresses -/

theorem spAfterPull_inj {s : State} {j k : Nat} (hj : j < 256) (hk : k < 256) (h : spAfterPull s j = spAfterPull s k) :
    j = k := by
  unfold spAfterPull at h
  cases he : s.e <;> rw [he] at h
  · simp only [Bool.false_eq_true, if_false] at h; bv_omega
  · simp only [if_true, word_eq_iff, true_and] at h; bv_omega

theorem readsApart_pullTrace (s : State) {n : Nat} (hn : n < 255) : ReadsApart (pullTrace s (s.pulls n)) := by
  have hstack : ((List.range n).map fun i => addr 0 (spAfterPull s (i + 1))).Nodup := by
    refine List.Nodup.map_on (fun i hi j hj h => ?_) List.nodup_range
    rw [List.mem_range] at hi hj
    have := spAfterPull_inj (by omega) (by omega) ((addr_eq_iff _ _ _ _).1 h).2
    omega
  intro k
  cases k with
  | data => simpa [pullTrace, readsOf_pulls] using hstack
  | _ => simp [pullTrace, readsOf_pulls]

/-- The three stack cycles of a reset are at different addresses of page 1. -/
theorem spStep_push_ne (sp : Word) :
    sp ≠ spStep true sp 0xFFFF ∧ sp ≠ spStep true sp 0xFFFE ∧ spStep true sp 0xFFFF ≠ spStep true sp 0xFFFE := by
  refine ⟨fun h => ?_, fun h => ?_, fun h => ?_⟩ <;>
  · have hlow := congrArg lo h
    simp only [spStep, if_true, lo_word, left_eq_add, add_right_inj] at hlow
    exact absurd hlow (by decide)

theorem readsApart_resetCycles (s : State) : ReadsApart (resetCycles s) := by
  obtain ⟨h1, h2, h3⟩ := spStep_push_ne (resetInit s).sp
  intro k
  cases k with
  | data => simpa [resetCycles, conditioningCycles, resetSequence] using ⟨⟨h1, h2⟩, h3⟩
  | _ => simp [resetCycles, conditioningCycles, resetSequence]

theorem readsSee_resetCycles (s : State) : ReadsSeeMemory s.pins.answers s.mem (resetCycles s) :=
  readsSee_shown (quiet_resetCycles s) (shown_resetCycles s) (readsApart_resetCycles s)

theorem readsApart_interruptCycles (k : IntKind) (r : Word) (s : State) : ReadsApart (interruptCycles k r s) := by
  intro kind
  cases kind <;> simp [interruptCycles, frameCycles]

theorem readsSee_interruptCycles (k : IntKind) (r : Word) (s : State) :
    ReadsSeeMemory s.pins.answers s.mem (interruptCycles k r s) :=
  readsSeeMemory_fixed _ _ _ (readsFixed_shown_append (cs := [leadInCycle (addr s.pbr s.pc), internalCycle (addr s.pbr s.pc)])
    (by simp) (by simp) (readsFixed_frameCycles k r s)) (readsApart_interruptCycles k r s)

/-! ### Instructions with a data operand -/

/-- The operand bytes of an instruction are at different addresses. -/
theorem nodup_operandAddresses (s : State) {n : Nat} (hn : n < 4) :
    ((List.range n).map fun j => addr s.pbr (s.pc + BitVec.ofNat 16 (j + 1))).Nodup := by
  refine List.Nodup.map_on (fun i hi j hj h => ?_) List.nodup_range
  rw [List.mem_range] at hi hj
  have h := ((addr_eq_iff _ _ _ _).1 h).2
  bv_omega

theorem len_lt (m : MemMode) : m.len - 1 < 4 := by cases m <;> simp [MemMode.len]

theorem readsApart_modeCycles (m : MemMode) (acc : Access) (s : State) :
    ReadsApart (opcodeCycle s :: m.cycles acc s) := by
  intro k
  rw [readsOf_cons, reads_opcodeCycle, readsOf_modeCycles]
  cases k with
  | program => simpa using nodup_operandAddresses s (len_lt m)
  | data => simpa using nodup_pointers m s
  | opcode | locked | vector => simp

theorem shown_fetchAndMode (m : MemMode) (acc : Access) (s : State) :
    Shown s.pins.answers s.mem (opcodeCycle s :: m.cycles acc s) := by simp

theorem quiet_fetchAndMode (m : MemMode) (acc : Access) (s : State) : Quiet (opcodeCycle s :: m.cycles acc s) := by simp

theorem readsSee_fetchAndMode (m : MemMode) (acc : Access) (s : State) :
    ReadsSeeMemory s.pins.answers s.mem (opcodeCycle s :: m.cycles acc s) :=
  readsSee_shown (quiet_fetchAndMode m acc s) (shown_fetchAndMode m acc s) (readsApart_modeCycles m acc s)

theorem nodup_locBytes (w : Width) (l : Loc) : (l.bytes w).Nodup := by
  cases w
  · simp [Loc.bytes]
  · simpa [Loc.bytes] using (a1_ne_a0 l).symm

/-- The reads of an operand after its pointer: the answers left are those of the state the operand is read in. -/
theorem readsSee_readCycles (m : MemMode) (acc : Access) (w : Width) (s : State) :
    ReadsSeeMemory (useCycles s.pins.answers (opcodeCycle s :: m.cycles acc s)) s.mem
      (readCycles (m.reached s) w (m.loc s)) := by
  have hreads : ∀ k, readsOf k (readCycles (m.reached s) w (m.loc s)) = if k = .data then (m.loc s).bytes w else [] :=
    fun k => readsOf_readCycles k _ w _
  refine readsSeeMemory_of_fixed (m.reached s).pins.answers _ _ _ ?_ ?_ ?_
  · exact readsFixed_quiet _ _ _ (quiet_readCycles _ _ _) (shown_readCycles (m.reached s) w (m.loc s))
  · intro k
    rw [hreads]
    split
    · exact nodup_locBytes w _
    · exact List.nodup_nil
  · intro k a ha
    rw [hreads] at ha
    split at ha
    · next hk =>
      subst hk
      exact answerFor_congr _ _ .data (ofKind_reached m acc s) a
    · cases ha

/-- A read-modify-write reads its bytes in locked cycles, which the reads before it leave alone. -/
theorem readsFixed_modifyCycles (s : State) (w : Width) (l : Loc) (r : Word) :
    ReadsFixed s.pins.answers s.mem (modifyCycles s w l r) := by
  refine readsFixed_shown_append (quiet_lockedReadCycles s w l) (shown_lockedReadCycles s w l) ?_
  cases w <;> simp [readsFixed_cons]

theorem readsSee_modify (m : MemMode) (acc : Access) (s : State) (w : Width) (r : Word) :
    ReadsSeeMemory s.pins.answers s.mem ((opcodeCycle s :: m.cycles acc s) ++ modifyCycles s w (m.loc s) r) := by
  refine readsSeeMemory_fixed _ _ _ (readsFixed_shown_append (quiet_fetchAndMode m acc s) (shown_fetchAndMode m acc s)
    (readsFixed_modifyCycles s w (m.loc s) r)) fun k => ?_
  have hmode := readsApart_modeCycles m acc s k
  rw [readsOf_append, readsOf_modifyCycles]
  split
  · next hk =>
    subst hk
    have hnone : readsOf .locked (opcodeCycle s :: m.cycles acc s) = [] := by
      rw [readsOf_cons, reads_opcodeCycle, readsOf_modeCycles]; rfl
    rw [hnone]
    exact nodup_locBytes w _
  · rwa [List.append_nil]

theorem readsSee_operandCycles (mn : Mnemonic) (o : Operand) (s : State) :
    ReadsSeeMemory s.pins.answers s.mem (operandCycles mn o s) := by
  cases o with
  | imm v =>
    unfold operandCycles
    cases mn.width s with
    | w8 => exact readsSee_shown (by simp) (by simp) fun k => by cases k <;> simp
    | w16 => exact readsSee_shown (by simp) (by simp) fun k => by cases k <;> simp
  | mem m =>
    change ReadsSeeMemory s.pins.answers s.mem ((opcodeCycle s :: m.cycles mn.access s) ++ dataCycles mn s m)
    unfold dataCycles
    dsimp only
    cases mn.access with
    | read =>
      rw [readsSeeMemory_append, applyAll_quiet _ _ (quiet_fetchAndMode m _ s)]
      exact ⟨readsSee_fetchAndMode m _ s, readsSee_readCycles m _ _ s⟩
    | write =>
      rw [readsSeeMemory_append]
      refine ⟨readsSee_fetchAndMode m _ s, readsSeeMemory_noReads _ _ _ (fun k => readsOf_writeCycles k _ _ _) ?_⟩
      cases mn.width s <;> simp [writeCycles, readsFixed_cons]
    | modify => exact readsSee_modify m _ s _ _

/-! ### Instructions without a data operand -/

/-- The reads of the instruction stream and of a pointer in bank 0, with no write before them. -/
theorem readsSee_quiet {i : Instr} {s : State} (hi : (i.operand?.isNone && !i.mnemonic.stores) = true)
    (hs : Shown s.pins.answers s.mem (controlCycles i s)) (hn : ReadsApart (controlCycles i s)) :
    ReadsSeeMemory s.pins.answers s.mem (controlCycles i s) :=
  readsSee_shown (quiet_controlCycles s hi) hs hn

theorem shown_pullTrace (s : State) {reads : List BusCycle} (h : Shown s.pins.answers s.mem reads) :
    Shown s.pins.answers s.mem (pullTrace s reads) := by simpa [pullTrace] using h

theorem readsSee_pulls (s : State) {n : Nat} (hn : n < 255) :
    ReadsSeeMemory s.pins.answers s.mem (pullTrace s (s.pulls n)) :=
  readsSee_shown (quiet_pullTrace s _ (quiet_pulls s n)) (shown_pullTrace s (shown_pulls s n)) (readsApart_pullTrace s hn)

theorem readsApart_pullTraceN (s : State) {n : Nat} (hn : n < 4) : ReadsApart (pullTrace s (s.pullsN n)) := by
  have hstack : ((List.range n).map fun i => addr 0 (s.sp + BitVec.ofNat 16 (i + 1))).Nodup := by
    refine List.Nodup.map_on (fun i hi j hj h => ?_) List.nodup_range
    rw [List.mem_range] at hi hj
    have h := ((addr_eq_iff _ _ _ _).1 h).2
    bv_omega
  intro k
  cases k with
  | data => simpa [pullTrace, readsOf_pullsN] using hstack
  | _ => simp [pullTrace, readsOf_pullsN]

theorem readsSee_pullsN (s : State) {n : Nat} (hn : n < 4) :
    ReadsSeeMemory s.pins.answers s.mem (pullTrace s (s.pullsN n)) :=
  readsSee_shown (quiet_pullTrace s _ (quiet_pullsN s n)) (shown_pullTrace s (shown_pullsN s n))
    (readsApart_pullTraceN s hn)

/-- Cycles that read, then pushes, which read nothing. -/
theorem readsSee_thenPushes {s : State} {cs ds : List BusCycle} (hq : Quiet cs)
    (hs : Shown s.pins.answers s.mem cs) (hn : ReadsApart cs) (hds : ∀ an m, ReadsFixed an m ds)
    (hnone : ∀ k, readsOf k ds = []) : ReadsSeeMemory s.pins.answers s.mem (cs ++ ds) :=
  readsSeeMemory_fixed _ _ _ (readsFixed_shown_append hq hs (hds _ _)) fun k => by
    rw [readsOf_append, hnone, List.append_nil]
    exact hn k

theorem readsSee_pushes {s : State} {cs : List BusCycle} (bs : List Byte) (hq : Quiet cs)
    (hs : Shown s.pins.answers s.mem cs) (hn : ReadsApart cs) : ReadsSeeMemory s.pins.answers s.mem (cs ++ s.pushes bs) :=
  readsSee_thenPushes hq hs hn (readsFixed_pushes s bs) fun k => readsOf_pushes k s bs

theorem readsSee_pushesN {s : State} {cs : List BusCycle} (bs : List Byte) (hq : Quiet cs)
    (hs : Shown s.pins.answers s.mem cs) (hn : ReadsApart cs) : ReadsSeeMemory s.pins.answers s.mem (cs ++ s.pushesN bs) :=
  readsSee_thenPushes hq hs hn (readsFixed_pushesN s bs) fun k => readsOf_pushesN k s bs

theorem readsApart_fetch (s : State) : ReadsApart [opcodeCycle s, internalAt s 1] := by
  intro k
  cases k <;> simp

theorem readsSee_fetch (s : State) : ReadsSeeMemory s.pins.answers s.mem [opcodeCycle s, internalAt s 1] :=
  readsSee_shown (quiet_twoCycles s) (by simp) (readsApart_fetch s)

theorem readsSee_pushTrace (s : State) (bs : List Byte) :
    ReadsSeeMemory s.pins.answers s.mem (pushTrace s (s.pushes bs)) :=
  readsSee_pushes (cs := [opcodeCycle s, internalAt s 1]) bs (quiet_twoCycles s) (by simp) (readsApart_fetch s)

/-- The pointer of PEI is read in data cycles. -/
theorem readsApart_pei (d : Byte) (s : State) :
    ReadsApart (opcodeCycle s :: operandCycle s 1 :: dlCycle s ++ pointerCycles s (dirLongLoc s d)) := by
  intro k
  cases k with
  | data => simpa [pointerCycles] using (a1_ne_a0 (dirLongLoc s d)).symm
  | _ => simp [pointerCycles]

/-- BRK and COP: the opcode, the signature, and the sequence. -/
theorem readsSee_softwareInterrupt (k : IntKind) (s : State) :
    ReadsSeeMemory s.pins.answers s.mem (opcodeCycle s :: operandCycle s 1 :: frameCycles k (s.pc + 2) s) := by
  refine readsSeeMemory_fixed _ _ _ (readsFixed_shown_append (cs := [opcodeCycle s, operandCycle s 1]) (by simp) (by simp)
    (readsFixed_frameCycles k (s.pc + 2) s)) fun kind => ?_
  cases kind <;> simp [frameCycles]

theorem readsSee_blockTrace (dba sba : Byte) (s : State) :
    ReadsSeeMemory s.pins.answers s.mem (blockTrace dba sba s) := by
  refine readsSeeMemory_fixed _ _ _ (by simp [blockTrace, readsFixed_cons]) fun k => ?_
  cases k <;> simp [blockTrace]

theorem readsApart_branchTrace (cond : Bool) (off : Byte) (s : State) : ReadsApart (branchTrace cond off s) := by
  intro k
  unfold branchTrace
  dsimp only
  split <;> split <;> cases k <;> simp

/-- Instructions that read their operand bytes, the jumps through bank 0 a pointer after them, and nothing else. -/
theorem readsSee_stream {i : Instr} (s : State)
    (hi : i ∈ [.xba, .stp, .wai] ∨ (∃ b, i ∈ [.wdm b, .rep b, .sep b]) ∨
      (∃ v, i ∈ [.brl v, .jmpAbs v, .jmpAbsInd v, .jml v]) ∨ ∃ al, i = .jmpLong al) :
    ReadsSeeMemory s.pins.answers s.mem (controlCycles i s) := by
  simp only [List.mem_cons, List.not_mem_nil, or_false] at hi
  obtain (rfl | rfl | rfl) | ⟨b, rfl | rfl | rfl⟩ | ⟨v, rfl | rfl | rfl | rfl⟩ | ⟨al, rfl⟩ := hi <;>
    refine readsSee_quiet rfl (by simp [controlCycles]) fun k => ?_ <;>
    cases k <;> simp [controlCycles]

theorem widthBytes_lt (w : Width) : widthBytes w < 255 := by cases w <;> decide

/-- RTS ends its pulls with an internal cycle. -/
theorem readsSee_rts (s : State) : ReadsSeeMemory s.pins.answers s.mem (controlCycles .rts s) := by
  have hpulls := readsSee_pulls s (n := 2) (by decide)
  have hlast := readsSeeMemory_noReads (useCycles s.pins.answers (pullTrace s (s.pulls 2)))
    (applyCycles s.mem (pullTrace s (s.pulls 2))) [internalCycle (addr 0 s.pull16.2.sp)] (fun k => by simp)
    (by simp [readsFixed_cons])
  exact (readsSeeMemory_append _ _ _ _).2 ⟨hpulls, hlast⟩

theorem readsApart_operands (s : State) :
    ReadsApart [opcodeCycle s, operandCycle s 1, operandCycle s 2] ∧
      ReadsApart [opcodeCycle s, operandCycle s 1, operandCycle s 2, internalAt s 2] := by
  constructor <;> intro k <;> cases k <;> simp

/-- JSL reads its bank byte from memory as its first push left it. -/
theorem readsSee_callLongTrace (s : State) : ReadsSeeMemory s.pins.answers s.mem (callLongTrace s) := by
  have hpush : applyCycles s.mem (opcodeCycle s :: operandCycle s 1 :: operandCycle s 2 :: s.pushesN [s.pbr]) =
      (s.pushN8 s.pbr).mem :=
    (applyAll_quiet_append [opcodeCycle s, operandCycle s 1, operandCycle s 2] _ _ (by simp)).trans (applyAll_pushesN s _)
  have hbank : (operandCycle (s.pushN8 s.pbr) 3).shows s.pins.answers (s.pushN8 s.pbr).mem :=
    shows_programCycle_of s (s.pushN8 s.pbr) _ rfl
  refine readsSeeMemory_fixed _ _ _ ((readsFixed_append _ _ _ _).2 ⟨?_, ?_⟩) fun k => ?_
  · exact readsFixed_shown_append (cs := [opcodeCycle s, operandCycle s 1, operandCycle s 2]) (by simp) (by simp)
      (readsFixed_pushesN s _ _ _)
  · rw [hpush]
    exact readsFixed_shown_append (cs := [internalCycle (addr 0 s.sp), operandCycle (s.pushN8 s.pbr) 3]) (by simp)
      (by simpa using hbank) (readsFixed_pushesN _ _ _ _)
  · cases k <;> simp [callLongTrace]

/-- The pointer of `(a,x)` is read after the operand bytes, with the answers those have left. -/
theorem readsSee_pointer {t : State} {an : List Answer} (b : Byte) (p : Word)
    (h : ofKind .program an = ofKind .program t.afterOperand.pins.answers) :
    ReadsSeeMemory an t.mem [programCycle t.afterOperand (addr b p), programCycle t.afterOperand (addr b (p + 1))] := by
  refine readsSeeMemory_of_fixed t.afterOperand.pins.answers an t.mem _ ?_ (fun k => ?_) fun k a ha => ?_
  · exact readsFixed_quiet _ _ _ (by simp) (by
      simpa using ⟨shows_programCycle t.afterOperand (addr b p), shows_programCycle t.afterOperand (addr b (p + 1))⟩)
  · cases k <;> simp
  · cases k with
    | program => exact answerFor_congr _ _ .program h a
    | _ => simp at ha

/-- The reads of a list that are those of the two operand bytes leave the answers of `afterOperand`. -/
theorem ofKind_afterOperand {s t : State} {cs : List BusCycle} (hpins : t.pins = s.pins)
    (h : readsOf .program cs = [addr t.pbr (t.pc + 1), addr t.pbr (t.pc + 2)]) :
    ofKind .program (useCycles s.pins.answers cs) = ofKind .program t.afterOperand.pins.answers := by
  rw [ofKind_useCycles, h, State.afterOperand, State.afterReads, ofKind_foldl_useAnswer, hpins]

theorem readsSee_jmpAbsIndX (aa : Word) (s : State) :
    ReadsSeeMemory s.pins.answers s.mem (controlCycles (.jmpAbsIndX aa) s) := by
  have hfetch : ReadsSeeMemory s.pins.answers s.mem [opcodeCycle s, operandCycle s 1, operandCycle s 2, internalAt s 2] :=
    readsSee_shown (by simp) (by simp) (readsApart_operands s).2
  exact (readsSeeMemory_append _ _ [_, _, _, _] _).2
    ⟨hfetch, readsSee_pointer s.pbr (aa + s.x) (ofKind_afterOperand rfl (by simp))⟩

/-- The cycles of JSR `(a,x)` before its pointer. -/
def callFetch (s : State) : List BusCycle :=
  opcodeCycle s :: operandCycle s 1 :: s.pushesN [hi (s.pc + 2), lo (s.pc + 2)]
    ++ [operandCycle (s.pushN16 (s.pc + 2)) 2, internalAt s 2]

theorem callIndXTrace_eq (aa : Word) (s : State) :
    let t := s.pushN16 (s.pc + 2)
    let p := word (refetch s t 2 (hi aa)) (lo aa) + s.x
    callIndXTrace aa s =
      callFetch s ++ [programCycle t.afterOperand (addr s.pbr p), programCycle t.afterOperand (addr s.pbr (p + 1))] :=
  (List.append_assoc _ [_, _] [_, _]).symm

/-- JSR `(a,x)` reads the high byte of its operand from memory as its pushes left it. -/
theorem readsSee_callIndXTrace (aa : Word) (s : State) : ReadsSeeMemory s.pins.answers s.mem (callIndXTrace aa s) := by
  have hpush : applyCycles s.mem (opcodeCycle s :: operandCycle s 1 :: s.pushesN [hi (s.pc + 2), lo (s.pc + 2)]) =
      (s.pushN16 (s.pc + 2)).mem :=
    (applyAll_quiet_append [opcodeCycle s, operandCycle s 1] _ _ (by simp)).trans (applyAll_pushesN s _)
  have hlast : (operandCycle (s.pushN16 (s.pc + 2)) 2).shows s.pins.answers (s.pushN16 (s.pc + 2)).mem :=
    shows_programCycle_of s (s.pushN16 (s.pc + 2)) _ rfl
  have hfetch : ReadsFixed s.pins.answers s.mem (callFetch s) := by
    refine (readsFixed_append _ _ _ _).2 ⟨readsFixed_shown_append (cs := [opcodeCycle s, operandCycle s 1]) (by simp)
      (by simp) (readsFixed_pushesN s _ _ _), ?_⟩
    rw [hpush]
    exact readsFixed_quiet _ _ _ (by simp) (by simpa using hlast)
  have hsee := readsSeeMemory_fixed _ _ _ hfetch fun k => by cases k <;> simp [callFetch]
  have hmem : applyCycles s.mem (callFetch s) = (s.pushN16 (s.pc + 2)).mem := by
    rw [callFetch, applyAll_append, hpush]
    exact applyAll_quiet _ _ (by simp)
  rw [callIndXTrace_eq, readsSeeMemory_append, hmem]
  exact ⟨hsee, readsSee_pointer s.pbr _ (ofKind_afterOperand rfl (by simp [callFetch]))⟩

theorem readsSee_controlCycles {i : Instr} (s : State) (ho : i.operand? = none) :
    ReadsSeeMemory s.pins.answers s.mem (controlCycles i s) := by
  cases i with
  | bcc _ | bcs _ | beq _ | bmi _ | bne _ | bpl _ | bvc _ | bvs _ | bra _ =>
    exact readsSee_quiet rfl (shown_branchTrace _ _ s) (readsApart_branchTrace _ _ s)
  | aslAcc | incAcc | rolAcc | decAcc | lsrAcc | rorAcc | clc | tcs | sec | tsc | cli | tcd | sei | tdc | dey | txa | tya
  | txs | txy | tay | tax | clv | tsx | tyx | iny | dex | cld | inx | nop | sed | xce =>
    exact readsSee_fetch s
  | xba | stp | wai | wdm _ | rep _ | sep _ | brl _ | jmpAbs _ | jmpLong _ | jmpAbsInd _ | jml _ =>
    exact readsSee_stream s (by simp)
  | pha | phx | phy | phb | phk | php => exact readsSee_pushTrace s _
  | phd => exact readsSee_pushesN (cs := [opcodeCycle s, internalAt s 1]) _ (quiet_twoCycles s) (by simp) (readsApart_fetch s)
  | pea aa =>
    exact readsSee_pushesN (cs := [opcodeCycle s, operandCycle s 1, operandCycle s 2]) _ (by simp) (by simp)
      (readsApart_operands s).1
  | pei d => exact readsSee_pushesN _ (by simp) (by simp) (readsApart_pei d s)
  | per off =>
    exact readsSee_pushesN (cs := [opcodeCycle s, operandCycle s 1, operandCycle s 2, internalAt s 2]) _ (by simp) (by simp)
      (readsApart_operands s).2
  | pla => exact readsSee_pulls s (widthBytes_lt s.wA)
  | plx | ply => exact readsSee_pulls s (widthBytes_lt s.wX)
  | plb | plp => exact readsSee_pulls s (by decide)
  | rti => exact readsSee_pulls s (by split <;> decide)
  | pld | rtl => exact readsSee_pullsN s (by decide)
  | rts => exact readsSee_rts s
  | brk sig => exact readsSee_softwareInterrupt .brk s
  | cop sig => exact readsSee_softwareInterrupt .cop s
  | mvn dba sba | mvp dba sba => exact readsSee_blockTrace dba sba s
  | jsrAbs aa =>
    exact readsSee_pushes (cs := [opcodeCycle s, operandCycle s 1, operandCycle s 2, internalAt s 2]) _ (by simp) (by simp)
      (readsApart_operands s).2
  | jsl al => exact readsSee_callLongTrace s
  | jmpAbsIndX aa => exact readsSee_jmpAbsIndX aa s
  | jsrAbsIndX aa => exact readsSee_callIndXTrace aa s
  | _ => cases ho

/-! ### The step -/

theorem readsSee_instrCycles (i : Instr) (s : State) : ReadsSeeMemory s.pins.answers s.mem (instrCycles i s) := by
  unfold instrCycles
  cases ho : i.operand? with
  | some o => exact readsSee_operandCycles i.mnemonic o s
  | none => exact readsSee_controlCycles s ho

/-- An internal cycle reads nothing. -/
theorem readsSee_internalAt (s : State) (k : Nat) (an : List Answer) (m : List Host.Cell) :
    ReadsSeeMemory an m [internalAt s k] :=
  readsSeeMemory_noReads an m _ (fun kind => by simp) (by simp [readsFixed_cons])

/-- Every action, by induction on how often it is cut short. -/
theorem readsSee_actionCycles (s : State) (a : Action) : ReadsSeeMemory s.pins.answers s.mem (actionCycles s a) := by
  induction a with
  | reset => exact readsSee_resetCycles s
  | stopped | waiting => exact readsSee_internalAt s 0 _ _
  | take k r => exact readsSee_interruptCycles k r s
  | abortDuringAbort => trivial
  | run => exact readsSee_instrCycles s.fetch s
  | abandon n b ih =>
    have hreset := readsSee_resetCycles (abandoned n (actionCycles s b) s)
    exact (readsSeeMemory_append _ _ _ _).2 ⟨readsSeeMemory_take _ _ _ n ih, hreset⟩

/-- Settles O59: action by action, each read with the answers and the memory of its turn. -/
theorem busReadsSeeMemory : Obligations.BusReadsSeeMemory := by
  intro s
  have haction := readsSee_actionCycles (boundary s).1 (boundary s).2
  rw [boundary_pins, boundary_mem] at haction
  unfold busCycles
  dsimp only
  split
  · exact (readsSeeMemory_append _ _ [_, _] _).2
      ⟨readsSeeMemory_noReads _ _ _ (fun k => by simp) (by simp [readsFixed_cons]), haction⟩
  · exact haction

end Sys2Proof.Machine
